-- ==== Sys2Proof/Word.lean ====
section
/-! DEFINITION. The word types of IS17-1 and their plainest arithmetic (00_scope.md R6, R8, R9). -/

namespace Sys2Proof

/-- The machine word, the spec's `W32` (R6, R8). -/
abbrev Word := BitVec 32

/-- The unit of input and output, the spec's `W8` (R6, R8). -/
abbrev Byte := BitVec 8

/-- A 5-bit register field that names an integer register (R71). -/
abbrev XReg := BitVec 5

/-- A 5-bit register field that names a floating-point register (R71). -/
abbrev FReg := BitVec 5

end Sys2Proof
end

