-- ==== Sys2Proof/Machine/Flags.lean ====
section
/-! DEFINITION. The machine has no flags (10_state.md R29): what other machines keep in flags is here a condition that a
branch or a set-less-than instruction computes and uses at once (41_branches.md R111 to R116, 44_op.md R151). -/

namespace Sys2Proof.Machine

/-- All 32 bits equal (R111). -/
def condEq (a b : Word) : Bool := decide (a = b)

/-- Less than as signed numbers (R113, R144). Log 21. -/
def condLtS (a b : Word) : Bool := decide (a.toInt < b.toInt)

/-- Less than as unsigned numbers (R115, R145). Log 21. -/
def condLtU (a b : Word) : Bool := decide (a.toNat < b.toNat)

/-- The 32-bit value 1 or 0 that a comparison writes (R151). -/
def flagWord (c : Bool) : Word := if c then 1#32 else 0#32

end Sys2Proof.Machine
end

