-- ==== Sys2Proof/Config.lean ====
section
/-! DEFINITION. What the spec leaves to the implementation or to the launch of a run (00_scope.md R7,
70_reset_and_hazards.md R232): the kinds of the named parameters, and the configuration functions and draws as
opaque constants, of which nothing can be proved but that they are functions of their arguments. -/

namespace Sys2Proof

/-- MEM_ORG (20_memory.md R45, D2): two memories, `separate`, or one map for instructions and data, `unified`. `unfixed`
is the reading of a model that does not choose. Log 4. -/
inductive MemOrg where
  | separate
  | unified
  | unfixed
  deriving DecidableEq, Repr

/-- FTOI_TIE (46_fp_compute.md R180 item 3, D14): which neighbour `ftoi` returns on an exact tie. `unfixed` leaves it a
draw between the two. Log 10. -/
inductive FtoiTie where
  | even
  | towardZero
  | away
  | unfixed
  deriving DecidableEq, Repr

/-- Whether the configuration functions of R7 stay free (R170) or are the recommended instantiation of R190.
Logs 8, 9. -/
inductive Numerics where
  | unfixed
  | ieee754
  deriving DecidableEq, Repr

/-- The machine modelled: the hardware, which lacks ten instructions, or the source's specification
(30_encoding.md R81). Log 16. -/
inductive InstrSet where
  | hardware
  | specification
  deriving DecidableEq, Repr

/-- FLOOR_ENCODING (30_encoding.md R77, 46_fp_compute.md R188, D12): the fixed bits of `floor` and where they are.
Log 7. -/
structure FloorEncoding where
  pattern : Word
  mask : Word
  deriving DecidableEq, Repr

/-- The open parameters of a run that a step consults (R7, R232). No instruction changes them. Log 28. -/
structure Params where
  instrSet : InstrSet
  memOrg : MemOrg
  imemWords : Nat
  dmemWords : Nat
  floorEncoding : FloorEncoding
  ftoiTie : FtoiTie
  numerics : Numerics
  deriving DecidableEq, Repr

/-- The five arithmetic operations that R170 gives a configuration function. -/
inductive FpOp where
  | add
  | sub
  | mul
  | div
  | sqrt
  deriving DecidableEq, Repr

namespace Config

/-- R170, R171: the result of `fadd`, a function of the operand bits and nothing else. Log 8. -/
opaque fadd32 : Word → Word → Word

/-- R170, R172: the result of `fsub`. Log 8. -/
opaque fsub32 : Word → Word → Word

/-- R170, R173: the result of `fmul`. Log 8. -/
opaque fmul32 : Word → Word → Word

/-- R170, R174: the result of `fdiv`. Log 8. -/
opaque fdiv32 : Word → Word → Word

/-- R170, R175: the result of `fsqrt`. Log 8. -/
opaque fsqrt32 : Word → Word

/-- R180 item 4: the result of `ftoi` on a NaN, an infinity or a value out of range. Log 11. -/
opaque ftoiDraw : Word → Word

/-- R188: the result of `floor` on a NaN, an infinity or a value out of range. Log 11. -/
opaque floorDraw : Word → Word

/-- R180 item 3: on a tie with FTOI_TIE not fixed, whether `ftoi` returns the upper neighbour. Log 10. -/
opaque ftoiTieUp : Word → Bool

/-- R186: for an integer binary32 cannot hold, whether `itof` returns the neighbour of greater magnitude. Log 12. -/
opaque itofUp : Word → Bool

/-- R182: the result of `feq` with a NaN, infinite or subnormal operand. Log 13. -/
opaque feqDraw : Word → Word → Bool

/-- R182: the result of `flt` with a NaN, infinite or subnormal operand. Log 13. -/
opaque fltDraw : Word → Word → Bool

/-- R182: the result of `fle` with a NaN, infinite or subnormal operand. Log 13. -/
opaque fleDraw : Word → Word → Bool

/-- R190: the sign and payload of the NaN that an operation of the recommended instantiation returns. Log 9. -/
opaque nanDraw : FpOp → Word → Word → Word

end Config

end Sys2Proof
end

