-- ==== Sys2Proof/Syntax.lean ====
section
/-! DEFINITION. The syntax of IS17-1: one constructor for each of the 57 rows of spec/opcode_table.json, in the
table's order (30_encoding.md R78). Operands have the widths of their fields (R62 to R73), so a term cannot hold an
operand without an encoding. Offsets of `jal` and of the branches are the word offsets `W` of R70 and R68. -/

namespace Sys2Proof

/-- An instruction. Which register file a field names is fixed per instruction (10_state.md R28). -/
inductive Instr where
  | lui (rd : XReg) (imm : BitVec 20)
  | auipc (rd : XReg) (imm : BitVec 20)
  | jal (rd : XReg) (off : BitVec 19)
  | jalr (rd rs1 : XReg) (imm : BitVec 12)
  | beq (rs1 rs2 : XReg) (off : BitVec 11)
  | bne (rs1 rs2 : XReg) (off : BitVec 11)
  | blt (rs1 rs2 : XReg) (off : BitVec 11)
  | bge (rs1 rs2 : XReg) (off : BitVec 11)
  | bltu (rs1 rs2 : XReg) (off : BitVec 11)
  | bgeu (rs1 rs2 : XReg) (off : BitVec 11)
  | lb (rd rs1 : XReg) (imm : BitVec 12)
  | lh (rd rs1 : XReg) (imm : BitVec 12)
  | lw (rd rs1 : XReg) (imm : BitVec 12)
  | lbu (rd rs1 : XReg) (imm : BitVec 12)
  | lhu (rd rs1 : XReg) (imm : BitVec 12)
  | sb (rs2 rs1 : XReg) (imm : BitVec 12)
  | sh (rs2 rs1 : XReg) (imm : BitVec 12)
  | sw (rs2 rs1 : XReg) (imm : BitVec 12)
  | addi (rd rs1 : XReg) (imm : BitVec 12)
  | slti (rd rs1 : XReg) (imm : BitVec 12)
  | sltiu (rd rs1 : XReg) (imm : BitVec 12)
  | xori (rd rs1 : XReg) (imm : BitVec 12)
  | ori (rd rs1 : XReg) (imm : BitVec 12)
  | andi (rd rs1 : XReg) (imm : BitVec 12)
  | slli (rd rs1 : XReg) (shamt : BitVec 5)
  | srli (rd rs1 : XReg) (shamt : BitVec 5)
  | srai (rd rs1 : XReg) (shamt : BitVec 5)
  | add (rd rs1 rs2 : XReg)
  | sub (rd rs1 rs2 : XReg)
  | sll (rd rs1 rs2 : XReg)
  | slt (rd rs1 rs2 : XReg)
  | sltu (rd rs1 rs2 : XReg)
  | xor (rd rs1 rs2 : XReg)
  | srl (rd rs1 rs2 : XReg)
  | sra (rd rs1 rs2 : XReg)
  | or (rd rs1 rs2 : XReg)
  | and (rd rs1 rs2 : XReg)
  | flw (rd : FReg) (rs1 : XReg) (imm : BitVec 12)
  | fsw (rs2 : FReg) (rs1 : XReg) (imm : BitVec 12)
  | fadd (rd rs1 rs2 : FReg)
  | fsub (rd rs1 rs2 : FReg)
  | fmul (rd rs1 rs2 : FReg)
  | fdiv (rd rs1 rs2 : FReg)
  | fsqrt (rd rs1 : FReg)
  | fmvff (rd rs1 : FReg)
  | fneg (rd rs1 : FReg)
  | fabs (rd rs1 : FReg)
  | ftoi (rd : XReg) (rs1 : FReg)
  | floor (rd : XReg) (rs1 : FReg)
  | ftox (rd : XReg) (rs1 : FReg)
  | fle (rd : XReg) (rs1 rs2 : FReg)
  | flt (rd : XReg) (rs1 rs2 : FReg)
  | feq (rd : XReg) (rs1 rs2 : FReg)
  | itof (rd : FReg) (rs1 : XReg)
  | xtof (rd : FReg) (rs1 : XReg)
  | ob (rs2 : XReg)
  | ib (rd : XReg)
  deriving DecidableEq, Repr

end Sys2Proof
end

