-- ==== Sys2Proof/Decode.lean ====
section
/-! DEFINITION. Decoding and encoding (30_encoding.md): the fields of an instruction word, a decoder that is total on
all words and says of a word without meaning which of the spec's two names applies to it (R80, R82), the encoder
written from the same formats, and the opcode table R78. Every bit position is the spec's, which took them from general
knowledge (log 20). -/

namespace Sys2Proof

/-! ### Byte order of an instruction word (20_memory.md R57) -/

/-- Four bytes, the least significant first, as a word (R57). -/
def wordOfBytes (b0 b1 b2 b3 : Byte) : Word := b3 ++ b2 ++ b1 ++ b0

/-- The four bytes of a word, the least significant first (R57). -/
def bytesOfWord (w : Word) : List Byte :=
  [w.extractLsb' 0 8, w.extractLsb' 8 8, w.extractLsb' 16 8, w.extractLsb' 24 8]

/-! ### Fields of a word (R61 to R73) -/

namespace Field

/-- `inst[6:0]` (R61). -/
def opcode (w : Word) : BitVec 7 := w.extractLsb' 0 7

/-- `inst[11:7]` (R62). -/
def rd (w : Word) : BitVec 5 := w.extractLsb' 7 5

/-- `inst[14:12]` (R62). -/
def funct3 (w : Word) : BitVec 3 := w.extractLsb' 12 3

/-- `inst[19:15]` (R62). -/
def rs1 (w : Word) : BitVec 5 := w.extractLsb' 15 5

/-- `inst[24:20]` (R62), also `shamt` (R64). -/
def rs2 (w : Word) : BitVec 5 := w.extractLsb' 20 5

/-- `inst[31:25]` (R62). -/
def funct7 (w : Word) : BitVec 7 := w.extractLsb' 25 7

/-- `inst[31:27]` (R72). -/
def funct5 (w : Word) : BitVec 5 := w.extractLsb' 27 5

/-- `inst[26:25]`, the format field (R72). -/
def fmt (w : Word) : BitVec 2 := w.extractLsb' 25 2

/-- The I-immediate (R66). -/
def immI (w : Word) : BitVec 12 := w.extractLsb' 20 12

/-- The S-immediate (R67). -/
def immS (w : Word) : BitVec 12 := w.extractLsb' 25 7 ++ w.extractLsb' 7 5

/-- The U-immediate field (R69). -/
def immU (w : Word) : BitVec 20 := w.extractLsb' 12 20

/-- The word offset of a branch (R68). -/
def offB (w : Word) : BitVec 11 :=
  w.extractLsb' 31 1 ++ w.extractLsb' 7 1 ++ w.extractLsb' 25 6 ++ w.extractLsb' 9 3

/-- `inst[8]`, 0 in every branch (R68). -/
def bit8 (w : Word) : BitVec 1 := w.extractLsb' 8 1

/-- The word offset of `jal` (R70). -/
def offJ (w : Word) : BitVec 19 :=
  w.extractLsb' 31 1 ++ w.extractLsb' 12 8 ++ w.extractLsb' 20 1 ++ w.extractLsb' 22 9

/-- `inst[21]`, 0 in every `jal` (R70). -/
def bit21 (w : Word) : BitVec 1 := w.extractLsb' 21 1

end Field

/-! ### Decoding -/

/-- Why a word has no meaning. -/
inductive DecodeError where
  /-- The word matches no row of the opcode table (R80). -/
  | illegal
  /-- The word agrees with an instruction in the fields the source fixes and differs in another field (R82). -/
  | nonCanonical
  /-- Fewer bytes than an instruction has (R60). -/
  | truncated
  deriving DecidableEq, Repr

/-- `i` where the fields the source leaves unnamed are canonical, else NonCanonical (R82). -/
def canonical (ok : Bool) (i : Instr) : Except DecodeError Instr :=
  if ok then .ok i else .error .nonCanonical

/-- Opcode 1100011 (R75, R68, R117). -/
def decodeBranch (w : Word) : Except DecodeError Instr :=
  let plain := Field.bit8 w == 0#1
  match Field.funct3 w with
  | 0b000#3 => canonical plain (.beq (Field.rs1 w) (Field.rs2 w) (Field.offB w))
  | 0b001#3 => canonical plain (.bne (Field.rs1 w) (Field.rs2 w) (Field.offB w))
  | 0b100#3 => canonical plain (.blt (Field.rs1 w) (Field.rs2 w) (Field.offB w))
  | 0b101#3 => canonical plain (.bge (Field.rs1 w) (Field.rs2 w) (Field.offB w))
  | 0b110#3 => canonical plain (.bltu (Field.rs1 w) (Field.rs2 w) (Field.offB w))
  | 0b111#3 => canonical plain (.bgeu (Field.rs1 w) (Field.rs2 w) (Field.offB w))
  | _ => .error .illegal

/-- Opcode 0000011 (R75, R80). -/
def decodeLoad (w : Word) : Except DecodeError Instr :=
  match Field.funct3 w with
  | 0b000#3 => .ok (.lb (Field.rd w) (Field.rs1 w) (Field.immI w))
  | 0b001#3 => .ok (.lh (Field.rd w) (Field.rs1 w) (Field.immI w))
  | 0b010#3 => .ok (.lw (Field.rd w) (Field.rs1 w) (Field.immI w))
  | 0b100#3 => .ok (.lbu (Field.rd w) (Field.rs1 w) (Field.immI w))
  | 0b101#3 => .ok (.lhu (Field.rd w) (Field.rs1 w) (Field.immI w))
  | _ => .error .illegal

/-- Opcode 0100011 (R75, R80). -/
def decodeStore (w : Word) : Except DecodeError Instr :=
  match Field.funct3 w with
  | 0b000#3 => .ok (.sb (Field.rs2 w) (Field.rs1 w) (Field.immS w))
  | 0b001#3 => .ok (.sh (Field.rs2 w) (Field.rs1 w) (Field.immS w))
  | 0b010#3 => .ok (.sw (Field.rs2 w) (Field.rs1 w) (Field.immS w))
  | _ => .error .illegal

/-- Opcode 0010011 (R75, R64, R76). -/
def decodeOpImm (w : Word) : Except DecodeError Instr :=
  match Field.funct3 w with
  | 0b000#3 => .ok (.addi (Field.rd w) (Field.rs1 w) (Field.immI w))
  | 0b010#3 => .ok (.slti (Field.rd w) (Field.rs1 w) (Field.immI w))
  | 0b011#3 => .ok (.sltiu (Field.rd w) (Field.rs1 w) (Field.immI w))
  | 0b100#3 => .ok (.xori (Field.rd w) (Field.rs1 w) (Field.immI w))
  | 0b110#3 => .ok (.ori (Field.rd w) (Field.rs1 w) (Field.immI w))
  | 0b111#3 => .ok (.andi (Field.rd w) (Field.rs1 w) (Field.immI w))
  | 0b001#3 =>
    match Field.funct7 w with
    | 0b0000000#7 => .ok (.slli (Field.rd w) (Field.rs1 w) (Field.rs2 w))
    | _ => .error .illegal
  | 0b101#3 =>
    match Field.funct7 w with
    | 0b0000000#7 => .ok (.srli (Field.rd w) (Field.rs1 w) (Field.rs2 w))
    | 0b0100000#7 => .ok (.srai (Field.rd w) (Field.rs1 w) (Field.rs2 w))
    | _ => .error .illegal
  | _ => .error .illegal

/-- Opcode 0110011 (R75, R76). -/
def decodeOp (w : Word) : Except DecodeError Instr :=
  match Field.funct7 w with
  | 0b0000000#7 =>
    match Field.funct3 w with
    | 0b000#3 => .ok (.add (Field.rd w) (Field.rs1 w) (Field.rs2 w))
    | 0b001#3 => .ok (.sll (Field.rd w) (Field.rs1 w) (Field.rs2 w))
    | 0b010#3 => .ok (.slt (Field.rd w) (Field.rs1 w) (Field.rs2 w))
    | 0b011#3 => .ok (.sltu (Field.rd w) (Field.rs1 w) (Field.rs2 w))
    | 0b100#3 => .ok (.xor (Field.rd w) (Field.rs1 w) (Field.rs2 w))
    | 0b101#3 => .ok (.srl (Field.rd w) (Field.rs1 w) (Field.rs2 w))
    | 0b110#3 => .ok (.or (Field.rd w) (Field.rs1 w) (Field.rs2 w))
    | 0b111#3 => .ok (.and (Field.rd w) (Field.rs1 w) (Field.rs2 w))
    | _ => .error .illegal
  | 0b0100000#7 =>
    match Field.funct3 w with
    | 0b000#3 => .ok (.sub (Field.rd w) (Field.rs1 w) (Field.rs2 w))
    | 0b101#3 => .ok (.sra (Field.rd w) (Field.rs1 w) (Field.rs2 w))
    | _ => .error .illegal
  | _ => .error .illegal

/-- Opcode 1010011 (R72, R77, R80, R82). The groups of funct5 00100 and 10100 have a funct3 the source fixes, so an
unassigned one is illegal; elsewhere a funct3, fmt or rs2 field of another value is not canonical. -/
def decodeFp (w : Word) : Except DecodeError Instr :=
  let single := Field.fmt w == 0#2
  let binary := single && Field.funct3 w == 0#3
  let unary := binary && Field.rs2 w == 0#5
  let sign := single && Field.rs2 w == Field.rs1 w
  match Field.funct5 w with
  | 0b00000#5 => canonical binary (.fadd (Field.rd w) (Field.rs1 w) (Field.rs2 w))
  | 0b00001#5 => canonical binary (.fsub (Field.rd w) (Field.rs1 w) (Field.rs2 w))
  | 0b00010#5 => canonical binary (.fmul (Field.rd w) (Field.rs1 w) (Field.rs2 w))
  | 0b00011#5 => canonical binary (.fdiv (Field.rd w) (Field.rs1 w) (Field.rs2 w))
  | 0b01011#5 => canonical unary (.fsqrt (Field.rd w) (Field.rs1 w))
  | 0b00100#5 =>
    match Field.funct3 w with
    | 0b000#3 => canonical sign (.fmvff (Field.rd w) (Field.rs1 w))
    | 0b001#3 => canonical sign (.fneg (Field.rd w) (Field.rs1 w))
    | 0b010#3 => canonical sign (.fabs (Field.rd w) (Field.rs1 w))
    | _ => .error .illegal
  | 0b11000#5 => canonical unary (.ftoi (Field.rd w) (Field.rs1 w))
  | 0b11100#5 => canonical unary (.ftox (Field.rd w) (Field.rs1 w))
  | 0b10100#5 =>
    match Field.funct3 w with
    | 0b000#3 => canonical single (.fle (Field.rd w) (Field.rs1 w) (Field.rs2 w))
    | 0b001#3 => canonical single (.flt (Field.rd w) (Field.rs1 w) (Field.rs2 w))
    | 0b010#3 => canonical single (.feq (Field.rd w) (Field.rs1 w) (Field.rs2 w))
    | _ => .error .illegal
  | 0b11010#5 => canonical unary (.itof (Field.rd w) (Field.rs1 w))
  | 0b11110#5 => canonical unary (.xtof (Field.rd w) (Field.rs1 w))
  | _ => .error .illegal

/-- The 56 rows of R78 whose encoding is no parameter: all but `floor` (R75, R80). -/
def decodeFixed (w : Word) : Except DecodeError Instr :=
  match Field.opcode w with
  | 0b0110111#7 => .ok (.lui (Field.rd w) (Field.immU w))
  | 0b0010111#7 => .ok (.auipc (Field.rd w) (Field.immU w))
  | 0b1101111#7 => canonical (Field.bit21 w == 0#1) (.jal (Field.rd w) (Field.offJ w))
  | 0b1100111#7 =>
    match Field.funct3 w with
    | 0b000#3 => .ok (.jalr (Field.rd w) (Field.rs1 w) (Field.immI w))
    | _ => .error .illegal
  | 0b1100011#7 => decodeBranch w
  | 0b0000011#7 => decodeLoad w
  | 0b0100011#7 => decodeStore w
  | 0b0010011#7 => decodeOpImm w
  | 0b0110011#7 => decodeOp w
  | 0b0000111#7 =>
    match Field.funct3 w with
    | 0b010#3 => .ok (.flw (Field.rd w) (Field.rs1 w) (Field.immI w))
    | _ => .error .illegal
  | 0b0100111#7 =>
    match Field.funct3 w with
    | 0b010#3 => .ok (.fsw (Field.rs2 w) (Field.rs1 w) (Field.immS w))
    | _ => .error .illegal
  | 0b1010011#7 => decodeFp w
  | 0b0001011#7 =>
    match Field.funct3 w with
    | 0b000#3 =>
      canonical (Field.funct7 w == 0#7 && Field.rs1 w == 0#5 && Field.rd w == 0#5) (.ob (Field.rs2 w))
    | _ => .error .illegal
  | 0b0101011#7 =>
    match Field.funct3 w with
    | 0b100#3 => canonical (Field.immI w == 0#12 && Field.rs1 w == 0#5) (.ib (Field.rd w))
    | _ => .error .illegal
  | _ => .error .illegal

/-- Whether a word is `floor` under a given FLOOR_ENCODING (R188). -/
def FloorEncoding.fits (fe : FloorEncoding) (w : Word) : Bool := w &&& fe.mask == fe.pattern

/-- The instruction of a word under a given FLOOR_ENCODING (R78, R188), or the reason it has none (R80, R82). The 56 fixed
rows come first, so where a FLOOR_ENCODING overlaps one of them, which D12 says it should not, the fixed row wins. DESIGN
CHOICE: the spec does not say which wins. A pattern may still take a word that is otherwise Illegal or NonCanonical. Log 7. -/
def decodeWith (fe : FloorEncoding) (w : Word) : Except DecodeError Instr :=
  match decodeFixed w with
  | .ok i => .ok i
  | .error e => if fe.fits w then .ok (.floor (Field.rd w) (Field.rs1 w)) else .error e

/-- The provisional default of FLOOR_ENCODING (R77, D12). Log 7. -/
def FloorEncoding.provisional : FloorEncoding := ⟨0xC0002053#32, 0xFFF0707F#32⟩

/-- Decoding under the provisional FLOOR_ENCODING. -/
def decode (w : Word) : Except DecodeError Instr := decodeWith .provisional w

/-- Decoding from bytes in memory order: the instruction and the bytes after it (R57, R60). -/
def decodeBytes (fe : FloorEncoding) : List Byte → Except DecodeError (Instr × List Byte)
  | b0 :: b1 :: b2 :: b3 :: rest => (decodeWith fe (wordOfBytes b0 b1 b2 b3)).map (fun i => (i, rest))
  | _ => .error .truncated

/-- What the decoder reads from an instruction whose bits are `w`, of which `nbits` are given and the others are 0. -/
def decodeTableWord (nbits w : Nat) : Option Instr :=
  match decodeBytes .provisional (bytesOfWord (BitVec.ofNat 32 (w % 2 ^ nbits))) with
  | .ok (i, _) => some i
  | .error _ => none

/-! ### Encoding -/

namespace Encode

/-- The R format (R62), also the I(5bit) format (R64) and the FP format (R72). -/
def r (funct7 : BitVec 7) (rs2 rs1 : BitVec 5) (funct3 : BitVec 3) (rd : BitVec 5) (opcode : BitVec 7) : Word :=
  funct7 ++ rs2 ++ rs1 ++ funct3 ++ rd ++ opcode

/-- The I format (R63, R66). -/
def i (imm : BitVec 12) (rs1 : BitVec 5) (funct3 : BitVec 3) (rd : BitVec 5) (opcode : BitVec 7) : Word :=
  imm ++ rs1 ++ funct3 ++ rd ++ opcode

/-- The S format (R65, R67). -/
def s (imm : BitVec 12) (rs2 rs1 : BitVec 5) (funct3 : BitVec 3) (opcode : BitVec 7) : Word :=
  imm.extractLsb' 5 7 ++ rs2 ++ rs1 ++ funct3 ++ imm.extractLsb' 0 5 ++ opcode

/-- The B format with the word offset shifted left by 2, so that `inst[8]` is 0 (R68). -/
def b (off : BitVec 11) (rs2 rs1 : BitVec 5) (funct3 : BitVec 3) : Word :=
  off.extractLsb' 10 1 ++ off.extractLsb' 3 6 ++ rs2 ++ rs1 ++ funct3 ++ off.extractLsb' 0 3 ++ 0#1 ++
    off.extractLsb' 9 1 ++ 0b1100011#7

/-- The U format (R69). -/
def u (imm : BitVec 20) (rd : BitVec 5) (opcode : BitVec 7) : Word := imm ++ rd ++ opcode

/-- The J format with the word offset shifted left by 2, so that `inst[21]` is 0 (R70). -/
def j (off : BitVec 19) (rd : BitVec 5) : Word :=
  off.extractLsb' 18 1 ++ off.extractLsb' 0 9 ++ 0#1 ++ off.extractLsb' 9 1 ++ off.extractLsb' 10 8 ++ rd ++
    0b1101111#7

/-- An FP word with fmt 00 (R72). -/
def fp (funct5 rs2 rs1 : BitVec 5) (funct3 : BitVec 3) (rd : BitVec 5) : Word :=
  r (funct5 ++ 0#2) rs2 rs1 funct3 rd 0b1010011#7

end Encode

/-- The word of an instruction under a given FLOOR_ENCODING (R62 to R73, R75 to R77). -/
def encodeWith (fe : FloorEncoding) : Instr → Word
  | .lui rd imm => Encode.u imm rd 0b0110111#7
  | .auipc rd imm => Encode.u imm rd 0b0010111#7
  | .jal rd off => Encode.j off rd
  | .jalr rd rs1 imm => Encode.i imm rs1 0b000#3 rd 0b1100111#7
  | .beq rs1 rs2 off => Encode.b off rs2 rs1 0b000#3
  | .bne rs1 rs2 off => Encode.b off rs2 rs1 0b001#3
  | .blt rs1 rs2 off => Encode.b off rs2 rs1 0b100#3
  | .bge rs1 rs2 off => Encode.b off rs2 rs1 0b101#3
  | .bltu rs1 rs2 off => Encode.b off rs2 rs1 0b110#3
  | .bgeu rs1 rs2 off => Encode.b off rs2 rs1 0b111#3
  | .lb rd rs1 imm => Encode.i imm rs1 0b000#3 rd 0b0000011#7
  | .lh rd rs1 imm => Encode.i imm rs1 0b001#3 rd 0b0000011#7
  | .lw rd rs1 imm => Encode.i imm rs1 0b010#3 rd 0b0000011#7
  | .lbu rd rs1 imm => Encode.i imm rs1 0b100#3 rd 0b0000011#7
  | .lhu rd rs1 imm => Encode.i imm rs1 0b101#3 rd 0b0000011#7
  | .sb rs2 rs1 imm => Encode.s imm rs2 rs1 0b000#3 0b0100011#7
  | .sh rs2 rs1 imm => Encode.s imm rs2 rs1 0b001#3 0b0100011#7
  | .sw rs2 rs1 imm => Encode.s imm rs2 rs1 0b010#3 0b0100011#7
  | .addi rd rs1 imm => Encode.i imm rs1 0b000#3 rd 0b0010011#7
  | .slti rd rs1 imm => Encode.i imm rs1 0b010#3 rd 0b0010011#7
  | .sltiu rd rs1 imm => Encode.i imm rs1 0b011#3 rd 0b0010011#7
  | .xori rd rs1 imm => Encode.i imm rs1 0b100#3 rd 0b0010011#7
  | .ori rd rs1 imm => Encode.i imm rs1 0b110#3 rd 0b0010011#7
  | .andi rd rs1 imm => Encode.i imm rs1 0b111#3 rd 0b0010011#7
  | .slli rd rs1 shamt => Encode.r 0b0000000#7 shamt rs1 0b001#3 rd 0b0010011#7
  | .srli rd rs1 shamt => Encode.r 0b0000000#7 shamt rs1 0b101#3 rd 0b0010011#7
  | .srai rd rs1 shamt => Encode.r 0b0100000#7 shamt rs1 0b101#3 rd 0b0010011#7
  | .add rd rs1 rs2 => Encode.r 0b0000000#7 rs2 rs1 0b000#3 rd 0b0110011#7
  | .sub rd rs1 rs2 => Encode.r 0b0100000#7 rs2 rs1 0b000#3 rd 0b0110011#7
  | .sll rd rs1 rs2 => Encode.r 0b0000000#7 rs2 rs1 0b001#3 rd 0b0110011#7
  | .slt rd rs1 rs2 => Encode.r 0b0000000#7 rs2 rs1 0b010#3 rd 0b0110011#7
  | .sltu rd rs1 rs2 => Encode.r 0b0000000#7 rs2 rs1 0b011#3 rd 0b0110011#7
  | .xor rd rs1 rs2 => Encode.r 0b0000000#7 rs2 rs1 0b100#3 rd 0b0110011#7
  | .srl rd rs1 rs2 => Encode.r 0b0000000#7 rs2 rs1 0b101#3 rd 0b0110011#7
  | .sra rd rs1 rs2 => Encode.r 0b0100000#7 rs2 rs1 0b101#3 rd 0b0110011#7
  | .or rd rs1 rs2 => Encode.r 0b0000000#7 rs2 rs1 0b110#3 rd 0b0110011#7
  | .and rd rs1 rs2 => Encode.r 0b0000000#7 rs2 rs1 0b111#3 rd 0b0110011#7
  | .flw rd rs1 imm => Encode.i imm rs1 0b010#3 rd 0b0000111#7
  | .fsw rs2 rs1 imm => Encode.s imm rs2 rs1 0b010#3 0b0100111#7
  | .fadd rd rs1 rs2 => Encode.fp 0b00000#5 rs2 rs1 0b000#3 rd
  | .fsub rd rs1 rs2 => Encode.fp 0b00001#5 rs2 rs1 0b000#3 rd
  | .fmul rd rs1 rs2 => Encode.fp 0b00010#5 rs2 rs1 0b000#3 rd
  | .fdiv rd rs1 rs2 => Encode.fp 0b00011#5 rs2 rs1 0b000#3 rd
  | .fsqrt rd rs1 => Encode.fp 0b01011#5 0#5 rs1 0b000#3 rd
  | .fmvff rd rs1 => Encode.fp 0b00100#5 rs1 rs1 0b000#3 rd
  | .fneg rd rs1 => Encode.fp 0b00100#5 rs1 rs1 0b001#3 rd
  | .fabs rd rs1 => Encode.fp 0b00100#5 rs1 rs1 0b010#3 rd
  | .ftoi rd rs1 => Encode.fp 0b11000#5 0#5 rs1 0b000#3 rd
  | .floor rd rs1 => fe.pattern ||| Encode.r 0#7 0#5 rs1 0#3 rd 0#7
  | .ftox rd rs1 => Encode.fp 0b11100#5 0#5 rs1 0b000#3 rd
  | .fle rd rs1 rs2 => Encode.fp 0b10100#5 rs2 rs1 0b000#3 rd
  | .flt rd rs1 rs2 => Encode.fp 0b10100#5 rs2 rs1 0b001#3 rd
  | .feq rd rs1 rs2 => Encode.fp 0b10100#5 rs2 rs1 0b010#3 rd
  | .itof rd rs1 => Encode.fp 0b11010#5 0#5 rs1 0b000#3 rd
  | .xtof rd rs1 => Encode.fp 0b11110#5 0#5 rs1 0b000#3 rd
  | .ob rs2 => Encode.r 0#7 rs2 0#5 0b000#3 0#5 0b0001011#7
  | .ib rd => Encode.i 0#12 0#5 0b100#3 rd 0b0101011#7

/-- Encoding under the provisional FLOOR_ENCODING. -/
def encode (i : Instr) : Word := encodeWith .provisional i

/-! ### The opcode table (R78) -/

/-- The fixed bits of a row of R78. -/
structure TableRow where
  pattern : Word
  mask : Word
  deriving DecidableEq, Repr

/-- Whether a word has a row's fixed bits (R78). -/
def TableRow.matches (row : TableRow) (w : Word) : Bool := w &&& row.mask == row.pattern

/-- The row of R78 for an instruction, transcribed from the columns `match` and `mask`. -/
def Instr.row (fe : FloorEncoding) : Instr → TableRow
  | .lui .. => ⟨0x00000037#32, 0x0000007F#32⟩
  | .auipc .. => ⟨0x00000017#32, 0x0000007F#32⟩
  | .jal .. => ⟨0x0000006F#32, 0x0020007F#32⟩
  | .jalr .. => ⟨0x00000067#32, 0x0000707F#32⟩
  | .beq .. => ⟨0x00000063#32, 0x0000717F#32⟩
  | .bne .. => ⟨0x00001063#32, 0x0000717F#32⟩
  | .blt .. => ⟨0x00004063#32, 0x0000717F#32⟩
  | .bge .. => ⟨0x00005063#32, 0x0000717F#32⟩
  | .bltu .. => ⟨0x00006063#32, 0x0000717F#32⟩
  | .bgeu .. => ⟨0x00007063#32, 0x0000717F#32⟩
  | .lb .. => ⟨0x00000003#32, 0x0000707F#32⟩
  | .lh .. => ⟨0x00001003#32, 0x0000707F#32⟩
  | .lw .. => ⟨0x00002003#32, 0x0000707F#32⟩
  | .lbu .. => ⟨0x00004003#32, 0x0000707F#32⟩
  | .lhu .. => ⟨0x00005003#32, 0x0000707F#32⟩
  | .sb .. => ⟨0x00000023#32, 0x0000707F#32⟩
  | .sh .. => ⟨0x00001023#32, 0x0000707F#32⟩
  | .sw .. => ⟨0x00002023#32, 0x0000707F#32⟩
  | .addi .. => ⟨0x00000013#32, 0x0000707F#32⟩
  | .slti .. => ⟨0x00002013#32, 0x0000707F#32⟩
  | .sltiu .. => ⟨0x00003013#32, 0x0000707F#32⟩
  | .xori .. => ⟨0x00004013#32, 0x0000707F#32⟩
  | .ori .. => ⟨0x00006013#32, 0x0000707F#32⟩
  | .andi .. => ⟨0x00007013#32, 0x0000707F#32⟩
  | .slli .. => ⟨0x00001013#32, 0xFE00707F#32⟩
  | .srli .. => ⟨0x00005013#32, 0xFE00707F#32⟩
  | .srai .. => ⟨0x40005013#32, 0xFE00707F#32⟩
  | .add .. => ⟨0x00000033#32, 0xFE00707F#32⟩
  | .sub .. => ⟨0x40000033#32, 0xFE00707F#32⟩
  | .sll .. => ⟨0x00001033#32, 0xFE00707F#32⟩
  | .slt .. => ⟨0x00002033#32, 0xFE00707F#32⟩
  | .sltu .. => ⟨0x00003033#32, 0xFE00707F#32⟩
  | .xor .. => ⟨0x00004033#32, 0xFE00707F#32⟩
  | .srl .. => ⟨0x00005033#32, 0xFE00707F#32⟩
  | .sra .. => ⟨0x40005033#32, 0xFE00707F#32⟩
  | .or .. => ⟨0x00006033#32, 0xFE00707F#32⟩
  | .and .. => ⟨0x00007033#32, 0xFE00707F#32⟩
  | .flw .. => ⟨0x00002007#32, 0x0000707F#32⟩
  | .fsw .. => ⟨0x00002027#32, 0x0000707F#32⟩
  | .fadd .. => ⟨0x00000053#32, 0xFE00707F#32⟩
  | .fsub .. => ⟨0x08000053#32, 0xFE00707F#32⟩
  | .fmul .. => ⟨0x10000053#32, 0xFE00707F#32⟩
  | .fdiv .. => ⟨0x18000053#32, 0xFE00707F#32⟩
  | .fsqrt .. => ⟨0x58000053#32, 0xFFF0707F#32⟩
  | .fmvff .. => ⟨0x20000053#32, 0xFE00707F#32⟩
  | .fneg .. => ⟨0x20001053#32, 0xFE00707F#32⟩
  | .fabs .. => ⟨0x20002053#32, 0xFE00707F#32⟩
  | .ftoi .. => ⟨0xC0000053#32, 0xFFF0707F#32⟩
  | .floor .. => ⟨fe.pattern, fe.mask⟩
  | .ftox .. => ⟨0xE0000053#32, 0xFFF0707F#32⟩
  | .fle .. => ⟨0xA0000053#32, 0xFE00707F#32⟩
  | .flt .. => ⟨0xA0001053#32, 0xFE00707F#32⟩
  | .feq .. => ⟨0xA0002053#32, 0xFE00707F#32⟩
  | .itof .. => ⟨0xD0000053#32, 0xFFF0707F#32⟩
  | .xtof .. => ⟨0xF0000053#32, 0xFFF0707F#32⟩
  | .ob .. => ⟨0x0000000B#32, 0xFE0FFFFF#32⟩
  | .ib .. => ⟨0x0000402B#32, 0xFFFFF07F#32⟩

/-- One instruction of each row of upper immediates, jumps, branches, loads and stores, every operand 0. -/
def fixedInstrsControlMemory : List Instr :=
  [.lui 0 0, .auipc 0 0, .jal 0 0, .jalr 0 0 0, .beq 0 0 0, .bne 0 0 0, .blt 0 0 0, .bge 0 0 0, .bltu 0 0 0,
    .bgeu 0 0 0, .lb 0 0 0, .lh 0 0 0, .lw 0 0 0, .lbu 0 0 0, .lhu 0 0 0, .sb 0 0 0, .sh 0 0 0, .sw 0 0 0]

/-- One instruction of each integer computation row, every operand 0. -/
def fixedInstrsInteger : List Instr :=
  [.addi 0 0 0, .slti 0 0 0, .sltiu 0 0 0, .xori 0 0 0, .ori 0 0 0, .andi 0 0 0, .slli 0 0 0, .srli 0 0 0,
    .srai 0 0 0, .add 0 0 0, .sub 0 0 0, .sll 0 0 0, .slt 0 0 0, .sltu 0 0 0, .xor 0 0 0, .srl 0 0 0, .sra 0 0 0,
    .or 0 0 0, .and 0 0 0]

/-- One instruction of each floating-point and I/O row but `floor`, every operand 0. -/
def fixedInstrsFloatIo : List Instr :=
  [.flw 0 0 0, .fsw 0 0 0, .fadd 0 0 0, .fsub 0 0 0, .fmul 0 0 0, .fdiv 0 0 0, .fsqrt 0 0, .fmvff 0 0, .fneg 0 0,
    .fabs 0 0, .ftoi 0 0, .ftox 0 0, .fle 0 0 0, .flt 0 0 0, .feq 0 0 0, .itof 0 0, .xtof 0 0, .ob 0, .ib 0]

/-- One instruction of each row but `floor`, every operand 0. -/
def fixedInstrs : List Instr := fixedInstrsControlMemory ++ fixedInstrsInteger ++ fixedInstrsFloatIo

/-- The 56 rows of R78 that are no parameter. -/
def fixedRows : List TableRow := fixedInstrs.map (Instr.row .provisional)

/-- The 57 rows of R78 under a given FLOOR_ENCODING. -/
def opcodeTable (fe : FloorEncoding) : List TableRow := Instr.row fe (.floor 0 0) :: fixedRows

/-- Whether no word has the fixed bits of both rows (R78: "No two rows overlap"). -/
def TableRow.disjoint (p q : TableRow) : Bool := (p.pattern ^^^ q.pattern) &&& p.mask &&& q.mask != 0#32

end Sys2Proof
end

