-- ==== Sys2Proof/WellFormed.lean ====
section
/-! DEFINITION. Well-formedness. The operands of `Instr` have the widths of their fields, so the one thing an
instruction can lack is an encoding for `floor`, whose pattern is a parameter (46_fp_compute.md R188, D12). Also here:
the parameters of a run (00_scope.md R7), and which numbers an immediate's encoding admits (30_encoding.md R74). -/

namespace Sys2Proof

/-- The bits of a `floor` word that carry operands: rd and rs1 (R188, R72). -/
def floorOperandBits : Word := 0x000F8F80#32

/-- A FLOOR_ENCODING a model can take: its pattern lies in its mask, the mask leaves rd and rs1 free, and the pair
overlaps no other row (D12: "overlaps no other row"). -/
def FloorEncoding.wf (fe : FloorEncoding) : Bool :=
  fe.pattern &&& fe.mask == fe.pattern && fe.mask &&& floorOperandBits == 0#32 &&
    fixedRows.all (fun row => TableRow.disjoint ⟨fe.pattern, fe.mask⟩ row)

/-- An instruction that has an encoding: every one, but `floor` only under a usable FLOOR_ENCODING. -/
def Instr.wf (fe : FloorEncoding) : Instr → Bool
  | .floor _ _ => fe.wf
  | _ => true

/-- Parameters of a run: memories no larger than the address space (R48) and a usable FLOOR_ENCODING. -/
def Params.wf (p : Params) : Bool :=
  decide (p.imemWords ≤ 2 ^ 32) && decide (p.dmemWords ≤ 2 ^ 32) && p.floorEncoding.wf

/-- The immediate formats of the table of R74. -/
inductive ImmFormat where
  | u
  | j
  | b
  | si
  | shamt
  deriving DecidableEq, Repr

/-- Whether a number can be written as an immediate of a format: the column "What the encoding allows" of R74. For U
either reading of the 20 bits is accepted (D25). -/
def ImmFormat.admits : ImmFormat → Int → Bool
  | .u, v => decide (-524288 ≤ v ∧ v ≤ 1048575)
  | .j, v => decide (-262144 ≤ v ∧ v ≤ 262143)
  | .b, v => decide (-1024 ≤ v ∧ v ≤ 1023)
  | .si, v => decide (-2048 ≤ v ∧ v ≤ 2047)
  | .shamt, v => decide (0 ≤ v ∧ v ≤ 31)

end Sys2Proof
end

