-- ==== Sys2Proof/Machine/Params.lean ====
section
/-! DEFINITION. The values that the open parameters of a run have at reset (00_scope.md R7). Each is a choice the spec
leaves open and a log entry names; a run may be launched with others (Machine/Launch.lean). -/

namespace Sys2Proof.Machine

/-- RESET_PC, whose default the spec gives as 0 (10_state.md R34, D17). Log 6. -/
def defaultResetPc : Word := 0#32

/-- The parameters of a run that does not fix them: the hardware (log 16), MEM_ORG not chosen (log 4), memories of the
whole address space (log 5), the provisional FLOOR_ENCODING (log 7), FTOI_TIE not fixed (log 10) and the arithmetic
functions free (logs 8, 9). -/
def defaultParams : Params where
  instrSet := .hardware
  memOrg := .unfixed
  imemWords := 2 ^ 32
  dmemWords := 2 ^ 32
  floorEncoding := .provisional
  ftoiTie := .unfixed
  numerics := .unfixed

/-- What every writable register of either file holds at reset: the spec gives no value (10_state.md R35) and the model
names one. DESIGN CHOICE, unsafe. Log 1. -/
def resetRegisterValue : Word := 0#32

end Sys2Proof.Machine
end

