-- ==== Sys2Proof/Machine/State.lean ====
section
/-! DEFINITION. The state of the machine (10_state.md R20 to R35), the reasons a step can stop (00_scope.md R12) and the
state after reset (R34, R230). There are no flags, no control registers, no mode and no hidden state (R29 to R31). -/

namespace Sys2Proof.Machine

/-- A memory, word addressed (20_memory.md R40), as a list of bytes with strictly rising keys: word `a` is the bytes
`4a` to `4a + 3`, the least significant first (R57). An unlisted byte holds no value (10_state.md R32, R35). Logs 2, 3. -/
abbrev Memory := List Host.Cell

/-- The whole state. -/
structure State where
  /-- The program counter, a word address (R23, R24). -/
  pc : Word
  /-- `x1` to `x31`; `x0` is hard-wired and has no slot (R20, R21). -/
  x : Vector Word 31
  /-- `f1` to `f10`, `f30`, `f31`; the other twenty are constants and have no slot (R25, R26). -/
  f : Vector Word 12
  /-- IMem: the program. Read by instruction fetch (R32) and, where MEM_ORG is unified, by loads (20_memory.md R45). -/
  imem : Memory
  /-- DMem, read by `lw` and `flw`, written by `sw` and `fsw` (R32). Where MEM_ORG is unified it is the part of the one map
  that lies outside the program, and instruction fetch reads it too (20_memory.md R45). Log 4. -/
  dmem : Memory
  /-- The data words that the stores of this run have written, as strictly rising word addresses: where MEM_ORG is unified
  a fetch of one has no defined meaning (20_memory.md R53). The model's own field. Log 30. -/
  stored : List Word
  /-- IN, the bytes `ib` has not consumed yet, the next one first (R33). -/
  input : List Byte
  /-- OUT, the bytes `ob` has produced, the first one first (R33). -/
  output : List Byte
  /-- The open parameters of the run (00_scope.md R7); no instruction changes them. -/
  params : Params
  deriving DecidableEq, Repr

/-- The faults. There is no architectural exception (60_exceptions.md R210); a fault marks an access that the run's
memory cannot serve. -/
inductive Fault where
  /-- BadAddress (20_memory.md R45, R48, R53; 70_reset_and_hazards.md R241). Raised by a fetch of a word that is
  not there or that this run has stored, and by a load or store beyond DMEM_WORDS or in the guarded program region. Safe: the machine stops
  where the hardware does something unknown. -/
  | badAddress (address : Word)
  deriving DecidableEq, Repr

/-- The refusals: words and reads to which the source gives no meaning. -/
inductive Refusal where
  /-- An instruction the model has not reached. Raised by `exec` alone; safe. -/
  | notModelled (mnemonic : String)
  /-- Illegal (30_encoding.md R80). Raised by `step` on a word of no row; safe. -/
  | illegal (word : Word)
  /-- NonCanonical (R82). Raised by `step` on a word whose unnamed fields are not canonical; safe. -/
  | nonCanonical (word : Word)
  /-- Unimplemented (R81, 42_loads_stores.md R121). Raised by the ten instructions the hardware lacks; safe. -/
  | unimplemented (mnemonic : String)
  /-- Unwritten (10_state.md R35). Raised by a load of a data word that holds no value; safe. -/
  | unwritten (address : Word)
  deriving DecidableEq, Repr

/-- The machine right after reset (R34, R230): pc at RESET_PC, nothing in memory, no input, no output, the writable
registers at the value log 1 names. -/
def State.reset : State where
  pc := defaultResetPc
  x := Vector.replicate 31 resetRegisterValue
  f := Vector.replicate 12 resetRegisterValue
  imem := []
  dmem := []
  stored := []
  input := []
  output := []
  params := defaultParams

end Sys2Proof.Machine
end

