-- ==== Sys2Proof/Machine/Memory.lean ====
section
/-! DEFINITION. The named operations over a memory (20_memory.md R40 to R57): its canonical form, one byte, one word.
Byte order is decided here and in `wordOfBytes` (R57), nowhere else. -/

namespace Sys2Proof.Machine

namespace Memory

/-- Whether every key is above `low` and the keys rise strictly. -/
def risesAbove (low : Nat) : Memory → Bool
  | [] => true
  | (k, _) :: rest => decide (low < k) && risesAbove k rest

/-- Keys rise strictly. -/
def rises : Memory → Bool
  | [] => true
  | (k, _) :: rest => risesAbove k rest

/-- The canonical form: keys rise strictly and lie in the address space of 2^32 words of four bytes (R40). An unlisted
byte holds no value, so no entry can equal what an unlisted address reads as. -/
def wf (m : Memory) : Bool := rises m && m.all (fun c => decide (c.1 < 2 ^ 34))

/-- The byte with a key, if one is there. -/
def readByte : Memory → Nat → Option Byte
  | [], _ => none
  | (k, b) :: rest, key => if k = key then some b else readByte rest key

/-- Puts a byte in its place. -/
def writeByte : Memory → Nat → Byte → Memory
  | [], key, v => [(key, v)]
  | (k, b) :: rest, key, v =>
    if key < k then (key, v) :: (k, b) :: rest
    else if key = k then (key, v) :: rest
    else (k, b) :: writeByte rest key v

/-- The key of the lowest byte of a word (R57). -/
def key (a : Word) : Nat := 4 * a.toNat

/-- The word at a word address, if its four bytes are there (R11, R32). -/
def readWord (m : Memory) (a : Word) : Option Word :=
  match readByte m (key a), readByte m (key a + 1), readByte m (key a + 2), readByte m (key a + 3) with
  | some b0, some b1, some b2, some b3 => some (wordOfBytes b0 b1 b2 b3)
  | _, _, _, _ => none

/-- Stores a word at a word address (R11). -/
def writeWord (m : Memory) (a : Word) (v : Word) : Memory :=
  writeByte (writeByte (writeByte (writeByte m (key a) (v.extractLsb' 0 8)) (key a + 1) (v.extractLsb' 8 8))
    (key a + 2) (v.extractLsb' 16 8)) (key a + 3) (v.extractLsb' 24 8)

/-- Whether a word address holds a word. -/
def holds (m : Memory) (a : Word) : Bool := (readWord m a).isSome

end Memory

end Sys2Proof.Machine
end

