-- ==== Sys2Proof/Machine/Ops.lean ====
section
/-! DEFINITION. The named operations over the state: registers with their hard-wired members (10_state.md R20 to R28),
the program counter (R23, R24), fetch, load and store (20_memory.md R40 to R48), the I/O streams (47_io.md R200). There
is no operation that takes an exception or returns from one: the hardware has neither (60_exceptions.md R210, R215,
R216), and a step that stops leaves no next state (R215). -/

namespace Sys2Proof.Machine

/-! ### Integer registers -/

/-- The slot of `x1` to `x31`; of no meaning for `x0`. -/
def xSlot (r : XReg) : Fin 31 := ⟨r.toNat - 1, by have := r.isLt; omega⟩

/-- `x[r]` (R10, R21): `x0` reads as zero. -/
def State.readX (s : State) (r : XReg) : Word := if r = 0#5 then 0#32 else s.x[xSlot r]

/-- `x[r] <- v` (R10, R21): a write to `x0` changes nothing. Log 22. -/
def State.writeX (s : State) (r : XReg) (v : Word) : State :=
  if r = 0#5 then s else { s with x := s.x.set (xSlot r) v }

/-! ### Floating-point registers -/

/-- The hard-wired constants, transcribed from the table of R26; `none` for the twelve writable registers. -/
def fpConstant (r : FReg) : Option Word :=
  match r.toNat with
  | 0 => some 0x00000000#32
  | 11 => some 0x3F800000#32
  | 12 => some 0x40000000#32
  | 13 => some 0x40800000#32
  | 14 => some 0x41200000#32
  | 15 => some 0x41700000#32
  | 16 => some 0x41A00000#32
  | 17 => some 0x43000000#32
  | 18 => some 0x43480000#32
  | 19 => some 0x437F0000#32
  | 20 => some 0x44548000#32
  | 21 => some 0x3DCCCCCD#32
  | 22 => some 0x3E4CCCCD#32
  | 23 => some 0x3A83126F#32
  | 24 => some 0x3BA3D70A#32
  | 25 => some 0x3E19999A#32
  | 26 => some 0x3E800000#32
  | 27 => some 0x3F000000#32
  | 28 => some 0x40490FDB#32
  | 29 => some 0x4118C9EB#32
  | _ => none

/-- The slot of a writable register: `f1` to `f10`, then `f30`, `f31`; of no meaning for a constant. -/
def fSlot (r : FReg) : Fin 12 :=
  if h : 1 ≤ r.toNat ∧ r.toNat ≤ 10 then ⟨r.toNat - 1, by omega⟩ else if r.toNat = 30 then 10 else 11

/-- `f[r]` (R10, R27): a constant register reads as its constant. -/
def State.readF (s : State) (r : FReg) : Word :=
  match fpConstant r with
  | some c => c
  | none => s.f[fSlot r]

/-- `f[r] <- v` (R10, R27): a write to a constant register changes nothing. Log 22. -/
def State.writeF (s : State) (r : FReg) (v : Word) : State :=
  match fpConstant r with
  | some _ => s
  | none => { s with f := s.f.set (fSlot r) v }

/-! ### The program counter -/

/-- `pc <- t` (R10). -/
def State.goto (s : State) (t : Word) : State := { s with pc := t }

/-- `pc <- pc + 1`, modulo 2^32 (R23, R24). Log 19. -/
def State.advance (s : State) : State := s.goto (s.pc + 1#32)

/-! ### Fetch, load, store -/

/-- The instruction word at a word address: a word of the program (R46) or, where MEM_ORG is `unified` and instructions
and data are one map, a word of data that no store of this run has written (R45, R53). Logs 4, 30. -/
def State.instructionAt (s : State) (a : Word) : Option Word :=
  match s.imem.readWord a with
  | some w => some w
  | none =>
    match s.params.memOrg with
    | .separate => none
    | .unified => if a ∈ s.stored then none else s.dmem.readWord a
    | .unfixed => none

/-- `Fetch(pc)` (R11, R46). A pc at or beyond IMEM_WORDS (R48) or at which there is no instruction word (R53, R241) is
BadAddress. Logs 4, 5, 30. -/
def State.fetch (s : State) : Except Fault Word :=
  if s.params.imemWords ≤ s.pc.toNat then .error (.badAddress s.pc)
  else match s.instructionAt s.pc with
    | some w => .ok w
    | none => .error (.badAddress s.pc)

/-- Whether a word address lies in the program region (R45). -/
def State.inProgram (s : State) (a : Word) : Bool := s.imem.holds a

/-- What a data load at a word address does. -/
inductive Loaded where
  /-- The word that is there. -/
  | value (v : Word)
  /-- BadAddress (R45, R48). -/
  | bad
  /-- The word holds no value (R35). -/
  | unwritten
  deriving DecidableEq, Repr

/-- A word of a memory, or that it holds no value (R35). -/
def loadFrom (m : Memory) (a : Word) : Loaded :=
  match m.readWord a with
  | some v => .value v
  | none => .unwritten

/-- `MemRead(a, 4)` (R11). Beyond DMEM_WORDS it is BadAddress (R48). In the program region MEM_ORG decides (R45):
`separate` reads DMem, `unified` reads the instruction word, `unfixed` is BadAddress. Logs 2, 4, 5. -/
def State.load (s : State) (a : Word) : Loaded :=
  if s.params.dmemWords ≤ a.toNat then .bad
  else if s.inProgram a then
    match s.params.memOrg with
    | .separate => loadFrom s.dmem a
    | .unified => loadFrom s.imem a
    | .unfixed => .bad
  else loadFrom s.dmem a

/-- Whether a store at a word address has a meaning: within DMEM_WORDS (R48) and, unless MEM_ORG is `separate`, outside
the program region (R45, R53). Logs 4, 5. -/
def State.storable (s : State) (a : Word) : Bool :=
  decide (a.toNat < s.params.dmemWords) &&
    match s.params.memOrg with
    | .separate => true
    | .unified => !s.inProgram a
    | .unfixed => !s.inProgram a

/-- Puts a word address in its place in a strictly rising list of them. -/
def insertAddress (a : Word) : List Word → List Word
  | [] => [a]
  | b :: rest => if a.toNat < b.toNat then a :: b :: rest else if a = b then b :: rest else b :: insertAddress a rest

/-- `MemWrite(a, 4, v)` (R11) where the store has a meaning; the word is one this run has stored. Log 30. -/
def State.writeData (s : State) (a : Word) (v : Word) : State :=
  { s with dmem := s.dmem.writeWord a v, stored := insertAddress a s.stored }

/-- The effective address of every load and store, modulo 2^32 (R41). -/
def State.effective (s : State) (rs1 : XReg) (imm : BitVec 12) : Word := s.readX rs1 + imm.signExtend 32

/-! ### The I/O streams -/

/-- `Out(b)` (R11, R200): appends to OUT. Log 15. -/
def State.out (s : State) (b : Byte) : State := { s with output := s.output ++ [b] }

/-- Leaves IN with the given bytes (R200). -/
def State.setInput (s : State) (bytes : List Byte) : State := { s with input := bytes }

end Sys2Proof.Machine
end

