-- ==== Sys2Proof/Machine/Operands.lean ====
section
/-! DEFINITION. The operand forms shared by the instructions: what is read, what is written, where pc goes. All reads
use the state before the instruction (10_state.md R22, log 23). -/

namespace Sys2Proof.Machine

/-- The outcome of an instruction. -/
abbrev Result := Host.Outcome State Fault Refusal

/-- Writes an integer register and goes to the next instruction. -/
def State.setX (s : State) (rd : XReg) (v : Word) : State := (s.writeX rd v).advance

/-- Writes a floating-point register and goes to the next instruction. -/
def State.setF (s : State) (rd : FReg) (v : Word) : State := (s.writeF rd v).advance

/-- `x[rd] <- op(x[rs1], I)` (43_op_imm.md R130), with the immediate sign-extended (R66). -/
def opImm (op : Word → Word → Word) (rd rs1 : XReg) (imm : BitVec 12) (s : State) : Result :=
  .next (s.setX rd (op (s.readX rs1) (imm.signExtend 32)))

/-- `x[rd] <- op(x[rs1], shamt)` (R130), the amount 0 to 31 (R64). -/
def opShamt (op : Word → Nat → Word) (rd rs1 : XReg) (shamt : BitVec 5) (s : State) : Result :=
  .next (s.setX rd (op (s.readX rs1) shamt.toNat))

/-- `x[rd] <- op(x[rs1], x[rs2])` (44_op.md R140). -/
def opReg (op : Word → Word → Word) (rd rs1 rs2 : XReg) (s : State) : Result :=
  .next (s.setX rd (op (s.readX rs1) (s.readX rs2)))

/-- The shift amount of a register shift: the low five bits (R143, D21). Log 21. -/
def shiftAmount (v : Word) : Nat := (v.extractLsb' 0 5).toNat

/-- `if cond(x[rs1], x[rs2]) then pc <- pc + W else pc <- pc + 1` (41_branches.md R110). -/
def branchIf (cond : Word → Word → Bool) (rs1 rs2 : XReg) (off : BitVec 11) (s : State) : Result :=
  .next (if cond (s.readX rs1) (s.readX rs2) then s.goto (s.pc + off.signExtend 32) else s.advance)

/-- A branch that is in the source's specification and not in the hardware (30_encoding.md R81). Log 16. -/
def specBranchIf (mnemonic : String) (cond : Word → Word → Bool) (rs1 rs2 : XReg) (off : BitVec 11) (s : State) :
    Result :=
  match s.params.instrSet with
  | .hardware => .refused (.unimplemented mnemonic)
  | .specification => branchIf cond rs1 rs2 off s

/-- A load: the address checks, then `write` of the word read (42_loads_stores.md R120, 45_fp_load_store.md R160; order
of the outcomes 60_exceptions.md R214). -/
def loadInto (write : State → Word → State) (rs1 : XReg) (imm : BitVec 12) (s : State) : Result :=
  match s.load (s.effective rs1 imm) with
  | .value v => .next (write s v)
  | .bad => .fault (.badAddress (s.effective rs1 imm))
  | .unwritten => .refused (.unwritten (s.effective rs1 imm))

/-- A store: the address checks, then the write (R120, R160). -/
def storeFrom (value : Word) (rs1 : XReg) (imm : BitVec 12) (s : State) : Result :=
  if s.storable (s.effective rs1 imm) then .next (s.writeData (s.effective rs1 imm) value).advance
  else .fault (.badAddress (s.effective rs1 imm))

/-- `f[rd] <- op(f[rs1], f[rs2])` (46_fp_compute.md R171 to R174, R191). -/
def fpBinary (op : Word → Word → Word) (rd rs1 rs2 : FReg) (s : State) : Result :=
  .next (s.setF rd (op (s.readF rs1) (s.readF rs2)))

/-- `f[rd] <- op(f[rs1])` (R175 to R179). -/
def fpUnary (op : Word → Word) (rd rs1 : FReg) (s : State) : Result := .next (s.setF rd (op (s.readF rs1)))

/-- `x[rd] <- op(f[rs1], f[rs2])`, 1 or 0 (R182). -/
def fpCompare (op : Word → Word → Bool) (rd : XReg) (rs1 rs2 : FReg) (s : State) : Result :=
  .next (s.setX rd (flagWord (op (s.readF rs1) (s.readF rs2))))

/-- `x[rd] <- op(f[rs1])` (R180, R188, R181). -/
def fpToInt (op : Word → Word) (rd : XReg) (rs1 : FReg) (s : State) : Result := .next (s.setX rd (op (s.readF rs1)))

/-- `f[rd] <- op(x[rs1])` (R186, R187). -/
def intToFp (op : Word → Word) (rd : FReg) (rs1 : XReg) (s : State) : Result := .next (s.setF rd (op (s.readX rs1)))

end Sys2Proof.Machine
end

