-- ==== Sys2Proof/Machine/Branch.lean ====
section
/-! DEFINITION. The branches (41_branches.md R110 to R117). The hardware has beq and blt; the other four have the effect
the source's specification assigns them where the machine modelled is that specification (30_encoding.md R81,
95_test_vectors.md P6), and are refused on the hardware. Log 16. -/

namespace Sys2Proof.Machine

/-- `beq` (R111). -/
def execBeq (rs1 rs2 : XReg) (off : BitVec 11) (s : State) : Result := branchIf condEq rs1 rs2 off s

/-- `bne` (R112). -/
def execBne (rs1 rs2 : XReg) (off : BitVec 11) (s : State) : Result :=
  specBranchIf "bne" (fun a b => !condEq a b) rs1 rs2 off s

/-- `blt` (R113). -/
def execBlt (rs1 rs2 : XReg) (off : BitVec 11) (s : State) : Result := branchIf condLtS rs1 rs2 off s

/-- `bge` (R114). -/
def execBge (rs1 rs2 : XReg) (off : BitVec 11) (s : State) : Result :=
  specBranchIf "bge" (fun a b => !condLtS a b) rs1 rs2 off s

/-- `bltu` (R115). -/
def execBltu (rs1 rs2 : XReg) (off : BitVec 11) (s : State) : Result := specBranchIf "bltu" condLtU rs1 rs2 off s

/-- `bgeu` (R116). -/
def execBgeu (rs1 rs2 : XReg) (off : BitVec 11) (s : State) : Result :=
  specBranchIf "bgeu" (fun a b => !condLtU a b) rs1 rs2 off s

end Sys2Proof.Machine
end

