-- ==== Sys2Proof/Machine/Float.lean ====
section
/-! DEFINITION. Floating point: the value of a bit pattern (46_fp_compute.md R189), the recommended instantiation IEEE 754
binary32 with round to nearest even (R190), and the functions fadd32 … fle32 of 00_scope.md R7, each the free
configuration function or the recommended one as the parameter `numerics` says, within the bounds R180, R182, R186 and
R188 set. Logs 8 to 13, 27. -/

namespace Sys2Proof.Machine

/-! ### The value of a bit pattern (R189) -/

/-- Bit 31 (R189). -/
def fpSign (b : Word) : Bool := b.getLsbD 31

/-- The biased exponent `e = u(b[30:23])` (R189). -/
def fpExp (b : Word) : Nat := (b.extractLsb' 23 8).toNat

/-- The fraction `m = u(b[22:0])` (R189). -/
def fpFrac (b : Word) : Nat := (b.extractLsb' 0 23).toNat

/-- The five kinds of pattern (R189). -/
inductive FpClass where
  | zero
  | subnormal
  | normal
  | infinite
  | nan
  deriving DecidableEq, Repr

/-- The kind of a pattern (R189). -/
def fpClass (b : Word) : FpClass :=
  if fpExp b = 0 then if fpFrac b = 0 then .zero else .subnormal
  else if fpExp b = 255 then if fpFrac b = 0 then .infinite else .nan
  else .normal

/-- Zero, subnormal or normal: the patterns with a `val` (R189). -/
def fpFinite (b : Word) : Bool := fpExp b != 255

/-- The significand: `2^23 + m` of a normal, `m` of a subnormal or zero (R189). -/
def fpMant (b : Word) : Nat := if fpExp b = 0 then fpFrac b else 2 ^ 23 + fpFrac b

/-- The power of two in units of which the significand counts, above the least, -149: `e - 1` of a normal, 0 of a
subnormal (R189). -/
def fpPlace (b : Word) : Nat := fpExp b - 1

/-- The magnitude in units of 2^-149 (R189). An infinity counts as `2^128`, above every finite value. -/
def fpMagnitude (b : Word) : Nat := fpMant b * 2 ^ fpPlace b

/-- `val(b) * 2^149`, an integer (R189). -/
def fpScaled (b : Word) : Int := if fpSign b then -(fpMagnitude b : Int) else (fpMagnitude b : Int)

/-! ### Recommended instantiation (R190) -/

namespace Ieee

/-- Zero with a sign. -/
def zero (sign : Bool) : Word := if sign then 0x80000000#32 else 0x00000000#32

/-- Infinity with a sign. -/
def infinity (sign : Bool) : Word := if sign then 0xFF800000#32 else 0x7F800000#32

/-- A quiet NaN whose sign and payload are a draw (R190). Log 9. -/
def nan (op : FpOp) (a b : Word) : Word := 0x7FC00000#32 ||| (Config.nanDraw op a b &&& 0x803FFFFF#32)

/-- `n / 2^k` rounded to nearest, ties to even. -/
def shiftRne (n k : Nat) : Nat :=
  let q := n / 2 ^ k
  let twice := 2 * (n % 2 ^ k)
  if twice < 2 ^ k then q else if 2 ^ k < twice then q + 1 else if q % 2 = 0 then q else q + 1

/-- The binary32 pattern nearest to `± m * 2^e`, ties to even, subnormals kept, overflow to infinity. The last place is
`2^L` with `L` 23 below the leading bit and not below -149. -/
def round (sign : Bool) (m : Nat) (e : Int) : Word :=
  if m = 0 then zero sign
  else
    let l : Int := max ((Nat.log2 m : Int) + e - 23) (-149)
    let q := if l ≤ e then m * 2 ^ (e - l).toNat else shiftRne m (l - e).toNat
    let bits := (l + 149).toNat * 2 ^ 23 + q
    if 0x7F800000 ≤ bits then infinity sign else zero sign ||| BitVec.ofNat 32 bits

/-- Addition of patterns that are no NaN and not two opposite infinities. An exact zero sum is +0, but -0 when both
operands are negative zeros. -/
def addExact (a b : Word) : Word :=
  if !fpFinite a then a
  else if !fpFinite b then b
  else
    let sum := fpScaled a + fpScaled b
    if sum = 0 then zero (fpSign a && fpSign b) else round (decide (sum < 0)) sum.natAbs (-149)

/-- Addition, as `op` names it for the draw. -/
def addAs (op : FpOp) (a b b' : Word) : Word :=
  if fpClass a = .nan ∨ fpClass b' = .nan then nan op a b
  else if fpClass a = .infinite ∧ fpClass b' = .infinite ∧ fpSign a ≠ fpSign b' then nan op a b
  else addExact a b'

/-- IEEE 754 addition. -/
def add (a b : Word) : Word := addAs .add a b b

/-- IEEE 754 subtraction: addition of the second operand with its sign changed. -/
def sub (a b : Word) : Word := addAs .sub a b (b ^^^ 0x80000000#32)

/-- IEEE 754 multiplication. -/
def mul (a b : Word) : Word :=
  let sign := fpSign a != fpSign b
  if fpClass a = .nan ∨ fpClass b = .nan then nan .mul a b
  else if fpClass a = .infinite ∧ fpClass b = .zero ∨ fpClass a = .zero ∧ fpClass b = .infinite then nan .mul a b
  else if fpClass a = .infinite ∨ fpClass b = .infinite then infinity sign
  else round sign (fpMant a * fpMant b) ((fpPlace a : Int) + fpPlace b - 298)

/-- IEEE 754 division: `x / 0` is an infinity, `0 / 0` a NaN (R190). The quotient is taken to more bits than a
significand has, and one more bit stands for all that follow. -/
def div (a b : Word) : Word :=
  let sign := fpSign a != fpSign b
  if fpClass a = .nan ∨ fpClass b = .nan then nan .div a b
  else if fpClass a = .infinite ∧ fpClass b = .infinite ∨ fpClass a = .zero ∧ fpClass b = .zero then nan .div a b
  else if fpClass a = .infinite ∨ fpClass b = .zero then infinity sign
  else if fpClass b = .infinite then zero sign
  else
    let n := fpMant a * 2 ^ 50
    let d := fpMant b
    round sign (2 * (n / d) + if n % d = 0 then 0 else 1) ((fpPlace a : Int) - fpPlace b - 51)

/-- The integer square root, built from bit `k - 1` of the root down: the greatest `r'` above `r` in its low `k` bits
with `r' * r' ≤ n`. -/
def isqrtFrom (n : Nat) : Nat → Nat → Nat
  | 0, r => r
  | k + 1, r => isqrtFrom n k (if (r + 2 ^ k) * (r + 2 ^ k) ≤ n then r + 2 ^ k else r)

/-- IEEE 754 square root: a negative non-zero operand gives a NaN (R190), -0 gives -0. The radicand is
`n * 2^(2 * half - 202)` with `n` an integer, so the root is that of `n` times `2^(half - 101)`. -/
def sqrt (a : Word) : Word :=
  if fpClass a = .nan then nan .sqrt a a
  else if fpClass a = .zero then a
  else if fpSign a then nan .sqrt a a
  else if fpClass a = .infinite then a
  else
    let odd := (fpPlace a + 1) % 2
    let half := (fpPlace a + 1) / 2
    let n := fpMant a * 2 ^ odd * 2 ^ 52
    let r := isqrtFrom n 39 0
    round false (2 * r + if r * r = n then 0 else 1) ((half : Int) - 102)

end Ieee

/-! ### Arithmetic (R170 to R175) -/

/-- `fadd32` (R171). -/
def fadd32 (num : Numerics) (a b : Word) : Word :=
  match num with
  | .unfixed => Config.fadd32 a b
  | .ieee754 => Ieee.add a b

/-- `fsub32`, the first operand the minuend (R172). -/
def fsub32 (num : Numerics) (a b : Word) : Word :=
  match num with
  | .unfixed => Config.fsub32 a b
  | .ieee754 => Ieee.sub a b

/-- `fmul32` (R173). -/
def fmul32 (num : Numerics) (a b : Word) : Word :=
  match num with
  | .unfixed => Config.fmul32 a b
  | .ieee754 => Ieee.mul a b

/-- `fdiv32`, the first operand the dividend (R174). -/
def fdiv32 (num : Numerics) (a b : Word) : Word :=
  match num with
  | .unfixed => Config.fdiv32 a b
  | .ieee754 => Ieee.div a b

/-- `fsqrt32` (R175). -/
def fsqrt32 (num : Numerics) (a : Word) : Word :=
  match num with
  | .unfixed => Config.fsqrt32 a
  | .ieee754 => Ieee.sqrt a

/-! ### Sign manipulation (R176): bit operations, exact for every pattern -/

/-- `{~b[31], b[30:0]}` (R178). -/
def fneg32 (b : Word) : Word := b ^^^ 0x80000000#32

/-- `{0, b[30:0]}` (R179). -/
def fabs32 (b : Word) : Word := b &&& 0x7FFFFFFF#32

/-! ### Conversions -/

/-- Whether an integer has a 32-bit two's-complement pattern. -/
def inInt32 (n : Int) : Bool := decide (-2 ^ 31 ≤ n ∧ n ≤ 2 ^ 31 - 1)

/-- `floor(val(b))` (R188). -/
def fpFloor (b : Word) : Int := fpScaled b / 2 ^ 149

/-- `(val(b) - floor(val(b))) * 2^149`. -/
def fpRest (b : Word) : Int := fpScaled b % 2 ^ 149

/-- Whether `ftoi` takes the upper neighbour on a tie with lower neighbour `lower` (R180 item 3). -/
def tieUp (tie : FtoiTie) (b : Word) (lower : Int) : Bool :=
  match tie with
  | .even => lower % 2 != 0
  | .towardZero => decide (lower < 0)
  | .away => decide (0 ≤ lower)
  | .unfixed => Config.ftoiTieUp b

/-- The nearest integer to `val(b)`, a tie as FTOI_TIE says (R180 items 1 to 3). -/
def fpNearest (tie : FtoiTie) (b : Word) : Int :=
  if fpRest b < 2 ^ 148 then fpFloor b
  else if 2 ^ 148 < fpRest b then fpFloor b + 1
  else if tieUp tie b (fpFloor b) then fpFloor b + 1 else fpFloor b

/-- `ftoi32` (R180). -/
def ftoi32 (tie : FtoiTie) (b : Word) : Word :=
  if fpFinite b && inInt32 (fpNearest tie b) then BitVec.ofInt 32 (fpNearest tie b) else Config.ftoiDraw b

/-- `floor32` (R188). -/
def floor32 (b : Word) : Word :=
  if fpFinite b && inInt32 (fpFloor b) then BitVec.ofInt 32 (fpFloor b) else Config.floorDraw b

/-- The pattern of the greatest binary32 magnitude not above `n`, and what is left of `n` with the place value of the
pattern's last bit. -/
def truncToFp (n : Nat) : Nat × Nat × Nat :=
  let k := Nat.log2 n
  if n = 0 then (0, 0, 0)
  else if k ≤ 23 then ((k + 126) * 2 ^ 23 + n * 2 ^ (23 - k), 0, 0)
  else ((k + 126) * 2 ^ 23 + n / 2 ^ (k - 23), n % 2 ^ (k - 23), k - 23)

/-- Whether an inexact integer is converted to the neighbour of greater magnitude: a draw (R186), or to nearest even
(R190). Log 12. -/
def itofUp (num : Numerics) (x : Word) (bits rest place : Nat) : Bool :=
  match num with
  | .unfixed => Config.itofUp x
  | .ieee754 => decide (2 ^ place < 2 * rest) || (decide (2 * rest = 2 ^ place) && bits % 2 != 0)

/-- `itof32` (R186): exact when binary32 can hold the signed integer, else one of its two neighbours. -/
def itof32 (num : Numerics) (x : Word) : Word :=
  match truncToFp x.toInt.natAbs with
  | (bits, rest, place) =>
    Ieee.zero (decide (x.toInt < 0)) |||
      BitVec.ofNat 32 (if rest = 0 then bits else if itofUp num x bits rest place then bits + 1 else bits)

/-! ### Comparisons (R182 to R185) -/

/-- Zero or normal: the operands whose comparison the spec fixes (R182). -/
def fpPlain (b : Word) : Bool := decide (fpClass b = .zero) || decide (fpClass b = .normal)

/-- A comparison: by value on plain operands, else the draw or, under the recommended instantiation, by value with every
comparison with a NaN false (R182). Log 13. -/
def compareWith (num : Numerics) (byValue : Int → Int → Bool) (draw : Word → Word → Bool) (a b : Word) : Bool :=
  if fpPlain a && fpPlain b then byValue (fpScaled a) (fpScaled b)
  else match num with
    | .unfixed => draw a b
    | .ieee754 => decide (fpClass a ≠ .nan) && decide (fpClass b ≠ .nan) && byValue (fpScaled a) (fpScaled b)

/-- `feq32` (R183); a register that is no NaN equals itself (R183, corner cases). -/
def feq32 (num : Numerics) (a b : Word) : Bool :=
  if a = b ∧ fpClass a ≠ .nan then true
  else compareWith num (fun u v => decide (u = v)) Config.feqDraw a b

/-- `flt32` (R184). -/
def flt32 (num : Numerics) (a b : Word) : Bool := compareWith num (fun u v => decide (u < v)) Config.fltDraw a b

/-- `fle32` (R185). -/
def fle32 (num : Numerics) (a b : Word) : Bool := compareWith num (fun u v => decide (u ≤ v)) Config.fleDraw a b

end Sys2Proof.Machine
end

