-- ==== Sys2Proof/Machine/FpCompute.lean ====
section
/-! DEFINITION. The floating-point computational instructions (46_fp_compute.md R170 to R192). Each writes one register
and goes to the next instruction; no flag, no memory, no trap (R191). -/

namespace Sys2Proof.Machine

/-- `fadd` (R171). -/
def execFadd (rd rs1 rs2 : FReg) (s : State) : Result := fpBinary (fadd32 s.params.numerics) rd rs1 rs2 s

/-- `fsub` (R172). -/
def execFsub (rd rs1 rs2 : FReg) (s : State) : Result := fpBinary (fsub32 s.params.numerics) rd rs1 rs2 s

/-- `fmul` (R173). -/
def execFmul (rd rs1 rs2 : FReg) (s : State) : Result := fpBinary (fmul32 s.params.numerics) rd rs1 rs2 s

/-- `fdiv` (R174): division by zero does not trap. -/
def execFdiv (rd rs1 rs2 : FReg) (s : State) : Result := fpBinary (fdiv32 s.params.numerics) rd rs1 rs2 s

/-- `fsqrt` (R175): a negative operand does not trap. -/
def execFsqrt (rd rs1 : FReg) (s : State) : Result := fpUnary (fsqrt32 s.params.numerics) rd rs1 s

/-- `fmv.f.f` (R177). -/
def execFmvff (rd rs1 : FReg) (s : State) : Result := fpUnary (fun b => b) rd rs1 s

/-- `fneg` (R178). -/
def execFneg (rd rs1 : FReg) (s : State) : Result := fpUnary fneg32 rd rs1 s

/-- `fabs` (R179). -/
def execFabs (rd rs1 : FReg) (s : State) : Result := fpUnary fabs32 rd rs1 s

/-- `ftoi` (R180). -/
def execFtoi (rd : XReg) (rs1 : FReg) (s : State) : Result := fpToInt (ftoi32 s.params.ftoiTie) rd rs1 s

/-- `floor` (R188): the result is an integer. -/
def execFloor (rd : XReg) (rs1 : FReg) (s : State) : Result := fpToInt floor32 rd rs1 s

/-- `ftox` (R181): a bit-string copy. -/
def execFtox (rd : XReg) (rs1 : FReg) (s : State) : Result := fpToInt (fun b => b) rd rs1 s

/-- `fle` (R185). -/
def execFle (rd : XReg) (rs1 rs2 : FReg) (s : State) : Result := fpCompare (fle32 s.params.numerics) rd rs1 rs2 s

/-- `flt` (R184). -/
def execFlt (rd : XReg) (rs1 rs2 : FReg) (s : State) : Result := fpCompare (flt32 s.params.numerics) rd rs1 rs2 s

/-- `feq` (R183). -/
def execFeq (rd : XReg) (rs1 rs2 : FReg) (s : State) : Result := fpCompare (feq32 s.params.numerics) rd rs1 rs2 s

/-- `itof` (R186): the integer is signed. -/
def execItof (rd : FReg) (rs1 : XReg) (s : State) : Result := intToFp (itof32 s.params.numerics) rd rs1 s

/-- `xtof` (R187): a bit-string copy. -/
def execXtof (rd : FReg) (rs1 : XReg) (s : State) : Result := intToFp (fun v => v) rd rs1 s

end Sys2Proof.Machine
end

