-- ==== Sys2Proof/Machine/FpLoadStore.lean ====
section
/-! DEFINITION. Floating-point load and store (45_fp_load_store.md R160 to R162): 32 bits move unchanged. -/

namespace Sys2Proof.Machine

/-- `flw` (R161): the read and its checks take place also where the destination is a constant register. -/
def execFlw (rd : FReg) (rs1 : XReg) (imm : BitVec 12) (s : State) : Result :=
  loadInto (fun s v => s.setF rd v) rs1 imm s

/-- `fsw` (R162): a constant register stores its constant. -/
def execFsw (rs2 : FReg) (rs1 : XReg) (imm : BitVec 12) (s : State) : Result := storeFrom (s.readF rs2) rs1 imm s

end Sys2Proof.Machine
end

