-- ==== Sys2Proof/Machine/Io.lean ====
section
/-! DEFINITION. Input and output of bytes (47_io.md R200 to R204). -/

namespace Sys2Proof.Machine

/-- `ob` (R201): the low eight bits of the register; it always succeeds (R203, log 15). -/
def execOb (rs2 : XReg) (s : State) : Result := .next (s.out ((s.readX rs2).extractLsb' 0 8)).advance

/-- `ib` (R202): the next input byte, zero-extended. With no input the core waits at the instruction and nothing changes
(R203, 60_exceptions.md R211). Log 14. -/
def execIb (rd : XReg) (s : State) : Result :=
  match s.input with
  | [] => .next s
  | b :: rest => .next ((s.setInput rest).setX rd (b.zeroExtend 32))

end Sys2Proof.Machine
end

