-- ==== Sys2Proof/Machine/LoadStore.lean ====
section
/-! DEFINITION. Integer loads and stores (42_loads_stores.md R120 to R129). The six sub-word instructions "have an encoding
and a sketch of intent but no executable meaning" (R121) and are refused. -/

namespace Sys2Proof.Machine

/-- `lb` (R121, R122). -/
def execLb (_rd _rs1 : XReg) (_imm : BitVec 12) (_s : State) : Result := .refused (.unimplemented "lb")

/-- `lh` (R121, R123). -/
def execLh (_rd _rs1 : XReg) (_imm : BitVec 12) (_s : State) : Result := .refused (.unimplemented "lh")

/-- `lw` (R124): the read and its checks take place also where the destination is `x0`. -/
def execLw (rd rs1 : XReg) (imm : BitVec 12) (s : State) : Result := loadInto (fun s v => s.setX rd v) rs1 imm s

/-- `lbu` (R121, R125). -/
def execLbu (_rd _rs1 : XReg) (_imm : BitVec 12) (_s : State) : Result := .refused (.unimplemented "lbu")

/-- `lhu` (R121, R126). -/
def execLhu (_rd _rs1 : XReg) (_imm : BitVec 12) (_s : State) : Result := .refused (.unimplemented "lhu")

/-- `sb` (R121, R127). -/
def execSb (_rs2 _rs1 : XReg) (_imm : BitVec 12) (_s : State) : Result := .refused (.unimplemented "sb")

/-- `sh` (R121, R128). -/
def execSh (_rs2 _rs1 : XReg) (_imm : BitVec 12) (_s : State) : Result := .refused (.unimplemented "sh")

/-- `sw` (R129). -/
def execSw (rs2 rs1 : XReg) (imm : BitVec 12) (s : State) : Result := storeFrom (s.readX rs2) rs1 imm s

end Sys2Proof.Machine
end

