-- ==== Sys2Proof/Machine/OpImm.lean ====
section
/-! DEFINITION. The register-immediate integer instructions (43_op_imm.md R130 to R139). -/

namespace Sys2Proof.Machine

/-- `addi` (R131). -/
def execAddi (rd rs1 : XReg) (imm : BitVec 12) (s : State) : Result := opImm (fun a i => a + i) rd rs1 imm s

/-- `slti` (R132). -/
def execSlti (rd rs1 : XReg) (imm : BitVec 12) (s : State) : Result :=
  opImm (fun a i => flagWord (condLtS a i)) rd rs1 imm s

/-- `sltiu` (R133): the immediate is sign-extended, then compared as an unsigned number. Log 21. -/
def execSltiu (rd rs1 : XReg) (imm : BitVec 12) (s : State) : Result :=
  opImm (fun a i => flagWord (condLtU a i)) rd rs1 imm s

/-- `xori` (R134). -/
def execXori (rd rs1 : XReg) (imm : BitVec 12) (s : State) : Result := opImm (fun a i => a ^^^ i) rd rs1 imm s

/-- `ori` (R135). -/
def execOri (rd rs1 : XReg) (imm : BitVec 12) (s : State) : Result := opImm (fun a i => a ||| i) rd rs1 imm s

/-- `andi` (R136). -/
def execAndi (rd rs1 : XReg) (imm : BitVec 12) (s : State) : Result := opImm (fun a i => a &&& i) rd rs1 imm s

/-- `slli` (R137). -/
def execSlli (rd rs1 : XReg) (shamt : BitVec 5) (s : State) : Result := opShamt (fun a n => a <<< n) rd rs1 shamt s

/-- `srli` (R138): zeros enter. -/
def execSrli (rd rs1 : XReg) (shamt : BitVec 5) (s : State) : Result := opShamt (fun a n => a >>> n) rd rs1 shamt s

/-- `srai` (R139): copies of bit 31 enter. -/
def execSrai (rd rs1 : XReg) (shamt : BitVec 5) (s : State) : Result :=
  opShamt (fun a n => a.sshiftRight n) rd rs1 shamt s

end Sys2Proof.Machine
end

