-- ==== Sys2Proof/Machine/OpReg.lean ====
section
/-! DEFINITION. The register-register integer instructions (44_op.md R140 to R151). -/

namespace Sys2Proof.Machine

/-- `add` (R141). -/
def execAdd (rd rs1 rs2 : XReg) (s : State) : Result := opReg (fun a b => a + b) rd rs1 rs2 s

/-- `sub` (R142). -/
def execSub (rd rs1 rs2 : XReg) (s : State) : Result := opReg (fun a b => a - b) rd rs1 rs2 s

/-- `sll` (R143). -/
def execSll (rd rs1 rs2 : XReg) (s : State) : Result := opReg (fun a b => a <<< shiftAmount b) rd rs1 rs2 s

/-- `slt` (R144). -/
def execSlt (rd rs1 rs2 : XReg) (s : State) : Result := opReg (fun a b => flagWord (condLtS a b)) rd rs1 rs2 s

/-- `sltu` (R145). -/
def execSltu (rd rs1 rs2 : XReg) (s : State) : Result := opReg (fun a b => flagWord (condLtU a b)) rd rs1 rs2 s

/-- `xor` (R146). -/
def execXor (rd rs1 rs2 : XReg) (s : State) : Result := opReg (fun a b => a ^^^ b) rd rs1 rs2 s

/-- `srl` (R147). -/
def execSrl (rd rs1 rs2 : XReg) (s : State) : Result := opReg (fun a b => a >>> shiftAmount b) rd rs1 rs2 s

/-- `sra` (R148). -/
def execSra (rd rs1 rs2 : XReg) (s : State) : Result := opReg (fun a b => a.sshiftRight (shiftAmount b)) rd rs1 rs2 s

/-- `or` (R149). -/
def execOr (rd rs1 rs2 : XReg) (s : State) : Result := opReg (fun a b => a ||| b) rd rs1 rs2 s

/-- `and` (R150). -/
def execAnd (rd rs1 rs2 : XReg) (s : State) : Result := opReg (fun a b => a &&& b) rd rs1 rs2 s

end Sys2Proof.Machine
end

