-- ==== Sys2Proof/Machine/UpperJump.lean ====
section
/-! DEFINITION. Upper immediates and jumps: lui, auipc, jal, jalr (40_upper_and_jumps.md R100 to R104). There is no delay
slot (R104, log 26). -/

namespace Sys2Proof.Machine

/-- `{imm20, 0x000}` (R69). -/
def upper (imm : BitVec 20) : Word := imm ++ 0#12

/-- `lui` (R100). -/
def execLui (rd : XReg) (imm : BitVec 20) (s : State) : Result := .next (s.setX rd (upper imm))

/-- `auipc` (R101): pc is the word address of the instruction itself. -/
def execAuipc (rd : XReg) (imm : BitVec 20) (s : State) : Result := .next (s.setX rd (s.pc + upper imm))

/-- `jal` (R102): the link is `pc + 1`, the target `pc + W`. -/
def execJal (rd : XReg) (off : BitVec 19) (s : State) : Result :=
  .next ((s.writeX rd (s.pc + 1#32)).goto (s.pc + off.signExtend 32))

/-- `jalr` (R103): `x[rs1]` is read before the link is written; no bit of the target is cleared. -/
def execJalr (rd rs1 : XReg) (imm : BitVec 12) (s : State) : Result :=
  .next ((s.writeX rd (s.pc + 1#32)).goto (s.readX rs1 + imm.signExtend 32))

end Sys2Proof.Machine
end

