-- ==== Sys2Proof/Machine/Step.lean ====
section
/-! DEFINITION. One step: fetch the word at pc, decode it, execute it (20_memory.md R46; order of the outcomes
60_exceptions.md R214, log 29); and the placing of an instruction where the step fetches. -/

namespace Sys2Proof.Machine

/-- One instruction, or the reason there is none. Nothing is ever taken asynchronously (R213). -/
def step (s : State) : Host.Outcome State Fault Refusal :=
  match s.fetch with
  | .error reason => .fault reason
  | .ok w =>
    match decodeWith s.params.floorEncoding w with
    | .ok i => exec i s
    | .error .nonCanonical => .refused (.nonCanonical w)
    | .error _ => .refused (.illegal w)

/-- `s` with the instruction of the given bits in IMem at pc, and IMEM_WORDS raised to cover pc where it does not. It
stands for the loading of a program from outside the machine (70_reset_and_hazards.md R232). Log 6. -/
def State.withFetchWord (s : State) (nbits w : Nat) : State :=
  { s with
    imem := s.imem.writeWord s.pc (BitVec.ofNat 32 (w % 2 ^ nbits))
    params := { s.params with imemWords := max s.params.imemWords (s.pc.toNat + 1) } }

end Sys2Proof.Machine
end

