-- ==== Sys2Proof/Machine/Launch.lean ====
section
/-! DEFINITION. The launch of a run (70_reset_and_hazards.md R230 to R233): the program at word address 0 upward, an
optional data image, the input bytes, RESET_PC and the open parameters; images given as bytes (20_memory.md R57); and the
one thing the environment can do during a run, supplying input (47_io.md R203). -/

namespace Sys2Proof.Machine

/-- Everything that determines a run (R232). -/
structure Launch where
  program : List Word
  data : List (Word × Word)
  input : List Byte
  resetPc : Word
  params : Params
  deriving DecidableEq, Repr

/-- The words of a program at consecutive word addresses (R34, R232). -/
def placeProgram (m : Memory) (a : Word) : List Word → Memory
  | [] => m
  | w :: rest => placeProgram (m.writeWord a w) (a + 1#32) rest

/-- The words of a data image at their addresses (R232). -/
def placeData (m : Memory) : List (Word × Word) → Memory
  | [] => m
  | (a, v) :: rest => placeData (m.writeWord a v) rest

/-- The state in which a run begins (R34, R230 to R232). -/
def State.launch (l : Launch) : State :=
  { State.reset with
    pc := l.resetPc
    imem := placeProgram [] 0#32 l.program
    dmem := placeData [] l.data
    input := l.input
    params := l.params }

/-- The words of an image given as bytes, each assembled little-endian (R57); bytes short of a word give none. -/
def wordsOfBytes : List Byte → List Word
  | b0 :: b1 :: b2 :: b3 :: rest => wordOfBytes b0 b1 b2 b3 :: wordsOfBytes rest
  | _ => []

/-- The environment supplies one more input byte, between two steps (R203). -/
def State.supply (s : State) (b : Byte) : State := { s with input := s.input ++ [b] }

end Sys2Proof.Machine
end

