-- ==== Sys2Proof/Safety.lean ====
section
/-! DEFINITION. The terms in which claims about the machine are made: the invariant of its states, what an instruction
leaves alone, and how a run ends (70_reset_and_hazards.md R240, R241). -/

namespace Sys2Proof.Machine

/-! ### The invariant -/

/-- Whether word addresses rise strictly. -/
def risesStrictly : List Word → Bool
  | [] => true
  | a :: rest => rest.all (fun b => decide (a.toNat < b.toNat)) && risesStrictly rest

/-- Both memories and the list of stored words canonical, the parameters usable. -/
def State.wf (s : State) : Bool := s.imem.wf && s.dmem.wf && risesStrictly s.stored && s.params.wf

/-- Every word of a memory is there whole or not at all (20_memory.md R40: words share no bits). -/
def Memory.WholeWords (m : Memory) : Prop :=
  ∀ a : Word, ∀ i : Nat, i < 4 → m.readByte (Memory.key a + i) ≠ none → m.readWord a ≠ none

/-! ### What an instruction leaves alone -/

/-- Every byte of data memory reads as before, and no further word counts as stored. -/
def SameData (s t : State) : Prop := (∀ k : Nat, t.dmem.readByte k = s.dmem.readByte k) ∧ t.stored = s.stored

/-- Every byte of instruction memory reads as before, and the parameters of the run are as before. -/
def SameProgram (s t : State) : Prop :=
  (∀ k : Nat, t.imem.readByte k = s.imem.readByte k) ∧ t.params = s.params

/-- The two I/O streams are as before. -/
def SameIo (s t : State) : Prop := t.input = s.input ∧ t.output = s.output

/-- All 32 integer registers read as before. -/
def SameX (s t : State) : Prop := ∀ r : XReg, t.readX r = s.readX r

/-- All 32 floating-point registers read as before. -/
def SameF (s t : State) : Prop := ∀ r : FReg, t.readF r = s.readF r

/-- Integer register `rd` reads as `v`, or as zero if it is `x0`; the other 31 read as before (10_state.md R21). -/
def OnlyX (s t : State) (rd : XReg) (v : Word) : Prop :=
  ∀ r : XReg, t.readX r = if r = rd then (if rd = 0#5 then 0#32 else v) else s.readX r

/-- Whether a floating-point register is one of the twelve writable ones: f1 to f10, f30, f31 (10_state.md R25). -/
def WritableF (r : FReg) : Prop := 1 ≤ r.toNat ∧ r.toNat ≤ 10 ∨ r.toNat = 30 ∨ r.toNat = 31

/-- Floating-point register `rd` reads as `v` if it is writable and else as before; the other 31 read as before
(10_state.md R27). -/
def OnlyF (s t : State) (rd : FReg) (v : Word) : Prop :=
  (WritableF rd → t.readF rd = v) ∧ (¬ WritableF rd → t.readF rd = s.readF rd) ∧
    ∀ r : FReg, r ≠ rd → t.readF r = s.readF r

/-- The data bytes outside the four of the word at `a` read as before, the word at `a` reads as `v`, and it is the one
word more that counts as stored. -/
def OnlyWord (s t : State) (a v : Word) : Prop :=
  t.dmem.readWord a = some v ∧
    (∀ k : Nat, ¬ (4 * a.toNat ≤ k ∧ k < 4 * a.toNat + 4) → t.dmem.readByte k = s.dmem.readByte k) ∧
    ∀ b : Word, b ∈ t.stored ↔ b = a ∨ b ∈ s.stored

/-- The instruction completes: integer register `rd` gets `v`, pc gets `target`, nothing else changes. -/
def GivesX (i : Instr) (s : State) (rd : XReg) (v target : Word) : Prop :=
  ∃ t, exec i s = .next t ∧ t.pc = target ∧ OnlyX s t rd v ∧ SameF s t ∧ SameData s t ∧ SameProgram s t ∧ SameIo s t

/-- The instruction completes: floating-point register `rd` gets `v`, pc advances by one, nothing else changes. -/
def GivesF (i : Instr) (s : State) (rd : FReg) (v : Word) : Prop :=
  ∃ t, exec i s = .next t ∧ t.pc = s.pc + 1#32 ∧ OnlyF s t rd v ∧ SameX s t ∧ SameData s t ∧ SameProgram s t ∧
    SameIo s t

/-- The instruction completes: pc gets `target`, nothing else changes. -/
def GivesPc (i : Instr) (s : State) (target : Word) : Prop :=
  ∃ t, exec i s = .next t ∧ t.pc = target ∧ SameX s t ∧ SameF s t ∧ SameData s t ∧ SameProgram s t ∧ SameIo s t

/-- The instruction completes: the data word at `a` gets `v`, pc advances by one, nothing else changes. -/
def GivesWord (i : Instr) (s : State) (a v : Word) : Prop :=
  ∃ t, exec i s = .next t ∧ t.pc = s.pc + 1#32 ∧ OnlyWord s t a v ∧ SameX s t ∧ SameF s t ∧ SameProgram s t ∧
    SameIo s t

/-! ### The end of a run -/

/-- HALT, the convention by which a user of the model ends a run (R240). Log 25. -/
inductive Halt where
  /-- Run exactly the steps given. -/
  | stepBudget
  /-- End when the instruction at pc is `jal x0, 0`. -/
  | selfLoop
  /-- End when pc reaches a word address. -/
  | endAddress (a : Word)
  deriving DecidableEq, Repr

/-- Whether the word at pc is a given one. -/
def fetches (s : State) (w : Word) : Bool :=
  match s.fetch with
  | .ok w' => w' == w
  | .error _ => false

/-- Whether a state ends the run before another step (R240). -/
def Halt.ends : Halt → State → Bool
  | .stepBudget, _ => false
  | .selfLoop, s => fetches s 0x0000006F#32
  | .endAddress a, s => s.pc == a

/-- Whether the core waits at `ib` for input (47_io.md R203, 70_reset_and_hazards.md R241). -/
def State.waits (s : State) : Bool :=
  match s.fetch with
  | .error _ => false
  | .ok w =>
    match decodeWith s.params.floorEncoding w with
    | .ok (.ib _) => s.input.isEmpty
    | _ => false

/-- How a run of at most so many steps comes out (R240, R241). -/
inductive RunEnd where
  /-- The halt convention holds, after so many steps. -/
  | halted (steps : Nat) (s : State)
  /-- The core waits for input that does not come; the run does not end. -/
  | waiting (steps : Nat) (s : State)
  /-- The steps are used up. -/
  | exhausted (s : State)
  /-- A fault; the run is not final. -/
  | faulted (steps : Nat) (reason : Fault)
  /-- A refusal; the run is not final. -/
  | refused (steps : Nat) (reason : Refusal)
  deriving DecidableEq, Repr

/-- Runs at most `budget` steps, having made `done` of them (R240, R241). -/
def runFrom (halt : Halt) (s : State) : (budget : Nat) → (done : Nat) → RunEnd
  | 0, done => if halt.ends s then .halted done s else .exhausted s
  | budget + 1, done =>
    if halt.ends s then .halted done s
    else if s.waits then .waiting done s
    else
      match step s with
      | .next t => runFrom halt t budget (done + 1)
      | .fault reason => .faulted done reason
      | .refused reason => .refused done reason

end Sys2Proof.Machine
end

