-- ==== Sys2Proof/Certificates/Slice0/Obligations.lean ====
section
/-! DEFINITION. The statements for the provers. Those whose docstring names a log entry rest on a choice or an inference of
the model or on a sentence the spec marks as its own; the others formalise the numbered rule they name. Register effects,
the pc and the frame of an instruction are said together by GivesX, GivesF, GivesPc and GivesWord (Safety.lean), each of
which says that the instruction completes. -/

namespace Sys2Proof.Claims

open Sys2Proof.Machine

/-! ### Numbers (46_fp_compute.md R189) -/

/-- `e = u(b[30:23])`. -/
def expField (b : Word) : Nat := (b.extractLsb' 23 8).toNat

/-- `m = u(b[22:0])`. -/
def fracField (b : Word) : Nat := (b.extractLsb' 0 23).toNat

/-- Zero, subnormal or normal: the patterns that have a value. -/
def HasVal (b : Word) : Prop := expField b ≠ 255

/-- Zero or normal. -/
def ZeroOrNormal (b : Word) : Prop := 1 ≤ expField b ∧ expField b ≤ 254 ∨ expField b = 0 ∧ fracField b = 0

/-- `e = 255`, `m ≠ 0`. -/
def IsNaN (b : Word) : Prop := expField b = 255 ∧ fracField b ≠ 0

/-- `e = 0`, `m = 0`. -/
def IsZero (b : Word) : Prop := expField b = 0 ∧ fracField b = 0

/-- `e = 255`, `m = 0`. -/
def IsInfinite (b : Word) : Prop := expField b = 255 ∧ fracField b = 0

/-- The infinity with the sign bit `sign`. -/
def infinityOf (sign : Bool) : Word := if sign then 0xFF800000#32 else 0x7F800000#32

/-- `val(b)`, a rational number. -/
def val (b : Word) : ℚ :=
  (if b.getLsbD 31 then -1 else 1) *
    (if expField b = 0 then (fracField b : ℚ) * (2 : ℚ) ^ (-149 : ℤ)
     else ((2 ^ 23 + fracField b : ℕ) : ℚ) * (2 : ℚ) ^ ((expField b : ℤ) - 150))

/-- The zero with the sign bit `sign`. -/
def zeroOf (sign : Bool) : Word := if sign then 0x80000000#32 else 0x00000000#32

/-- `r` is `x` rounded to binary32 with roundTiesToEven (46_fp_compute.md R190, from general knowledge; log 9): below the
bound half a last place above the greatest binary32 number no number is nearer to `x`, and where another is as near `r` is
the even pattern; from that bound on `r` is the infinity; and the sign is that of `x`. -/
def RoundsTo (x : ℝ) (r : Word) : Prop :=
  (|x| < 2 ^ 128 - 2 ^ 103 →
    HasVal r ∧ ∀ c, HasVal c →
      |(val r : ℝ) - x| ≤ |(val c : ℝ) - x| ∧
        (|(val c : ℝ) - x| = |(val r : ℝ) - x| → val c ≠ val r → r.getLsbD 0 = false)) ∧
  (2 ^ 128 - 2 ^ 103 ≤ x → r = infinityOf false) ∧ (x ≤ -(2 ^ 128 - 2 ^ 103) → r = infinityOf true) ∧
  (0 < x → r.getLsbD 31 = false) ∧ (x < 0 → r.getLsbD 31 = true)

/-- The instruction completes with a NaN in `rd`: GivesF of some NaN, whose sign and payload are open (46_fp_compute.md
R190; log 9). -/
def GivesNaN (i : Instr) (s : State) (rd : FReg) : Prop := ∃ v, GivesF i s rd v ∧ IsNaN v

/-- Whether an integer has a 32-bit two's-complement pattern. -/
def InInt32 (n : ℤ) : Prop := -2147483648 ≤ n ∧ n ≤ 2147483647

/-- The 32-bit value 1 or 0 of a condition (44_op.md R151). -/
def oneIf (c : Prop) [Decidable c] : Word := if c then 1#32 else 0#32

/-! ### Encodings written out field by field (30_encoding.md R62 to R72) -/

/-- The word of opcode 0110011. -/
def opWord (funct7 : BitVec 7) (funct3 : BitVec 3) (rd rs1 rs2 : BitVec 5) : Word :=
  funct7 ++ rs2 ++ rs1 ++ funct3 ++ rd ++ 0b0110011#7

/-- The word of opcode 0010011 with a 12-bit immediate. -/
def opImmWord (funct3 : BitVec 3) (rd rs1 : BitVec 5) (imm : BitVec 12) : Word :=
  imm ++ rs1 ++ funct3 ++ rd ++ 0b0010011#7

/-- The word of opcode 0010011 with a shift amount. -/
def shiftWord (funct7 : BitVec 7) (funct3 : BitVec 3) (rd rs1 shamt : BitVec 5) : Word :=
  funct7 ++ shamt ++ rs1 ++ funct3 ++ rd ++ 0b0010011#7

/-- The word of opcode 1010011 with fmt 00. -/
def fpWord (funct5 : BitVec 5) (funct3 : BitVec 3) (rd rs1 rs2 : BitVec 5) : Word :=
  funct5 ++ 0b00#2 ++ rs2 ++ rs1 ++ funct3 ++ rd ++ 0b1010011#7

/-- The word of opcode 1100011. -/
def branchWord (funct3 : BitVec 3) (rs1 rs2 : BitVec 5) (off : BitVec 11) : Word :=
  off.extractLsb' 10 1 ++ off.extractLsb' 3 6 ++ rs2 ++ rs1 ++ funct3 ++ off.extractLsb' 0 3 ++ 0b0#1 ++
    off.extractLsb' 9 1 ++ 0b1100011#7

/-- Under every FLOOR_ENCODING the word `w` is the instruction `i`, and `i` writes `v` to the integer register `rd` and
goes to the next instruction, with nothing else changed. Under a FLOOR_ENCODING that overlaps the row of `i` the first part
is the model's choice (the fixed row wins): log 7. -/
def WordGivesX (w : Word) (i : Instr) (s : State) (rd : XReg) (v : Word) : Prop :=
  (∀ fe, decodeWith fe w = .ok i) ∧ GivesX i s rd v (s.pc + 1#32)

/-! ### Groups of instructions -/

/-- jal, jalr and the six branches. -/
def TransfersControl : Instr → Bool
  | .jal .. | .jalr .. | .beq .. | .bne .. | .blt .. | .bge .. | .bltu .. | .bgeu .. => true
  | _ => false

/-- The two instructions that read data memory. -/
def ReadsMemory : Instr → Bool
  | .lw .. | .flw .. => true
  | _ => false

/-- The four instructions that access memory. -/
def AccessesMemory : Instr → Bool
  | .lw .. | .flw .. | .sw .. | .fsw .. => true
  | _ => false

/-- The ten instructions the hardware does not implement (30_encoding.md R81). -/
def NotInHardware : Instr → Bool
  | .bne .. | .bge .. | .bltu .. | .bgeu .. | .lb .. | .lh .. | .lbu .. | .lhu .. | .sb .. | .sh .. => true
  | _ => false

/-- The three instructions whose rs2 field must repeat their rs1 field (30_encoding.md R72, R78). -/
def RepeatsSource : Instr → Bool
  | .fmvff .. | .fneg .. | .fabs .. => true
  | _ => false

/-! ### Words without a meaning (30_encoding.md R80, R82; 41_branches.md R117) -/

/-- The words that R80 and R117 list as illegal. -/
def ListedIllegal (w : Word) : Prop :=
  let op := w.extractLsb' 0 7
  let f3 := w.extractLsb' 12 3
  let f7 := w.extractLsb' 25 7
  let f5 := w.extractLsb' 27 5
  op ∉ ([0b0110111#7, 0b0010111#7, 0b1101111#7, 0b1100111#7, 0b1100011#7, 0b0000011#7, 0b0100011#7, 0b0010011#7,
      0b0110011#7, 0b0000111#7, 0b0100111#7, 0b1010011#7, 0b0001011#7, 0b0101011#7] : List (BitVec 7)) ∨
    op = 0b1100111#7 ∧ f3 ≠ 0b000#3 ∨
    op = 0b1100011#7 ∧ (f3 = 0b010#3 ∨ f3 = 0b011#3) ∨
    op = 0b0000011#7 ∧ (f3 = 0b011#3 ∨ f3 = 0b110#3 ∨ f3 = 0b111#3) ∨
    op = 0b0100011#7 ∧ 3 ≤ f3.toNat ∨
    (op = 0b0000111#7 ∨ op = 0b0100111#7) ∧ f3 ≠ 0b010#3 ∨
    op = 0b0110011#7 ∧ f7 ≠ 0#7 ∧ ¬ (f7 = 0b0100000#7 ∧ (f3 = 0b000#3 ∨ f3 = 0b101#3)) ∨
    op = 0b0010011#7 ∧ f3 = 0b001#3 ∧ f7 ≠ 0#7 ∨
    op = 0b0010011#7 ∧ f3 = 0b101#3 ∧ f7 ≠ 0#7 ∧ f7 ≠ 0b0100000#7 ∨
    op = 0b1010011#7 ∧ f5 ∉ ([0b00000#5, 0b00001#5, 0b00010#5, 0b00011#5, 0b01011#5, 0b00100#5, 0b11000#5, 0b11100#5,
      0b10100#5, 0b11010#5, 0b11110#5] : List (BitVec 5)) ∨
    op = 0b1010011#7 ∧ (f5 = 0b00100#5 ∨ f5 = 0b10100#5) ∧ 3 ≤ f3.toNat ∨
    op = 0b0001011#7 ∧ f3 ≠ 0b000#3 ∨
    op = 0b0101011#7 ∧ f3 ≠ 0b100#3

/-- The cases of the table of R82. -/
def ListedNonCanonical (w : Word) : Prop :=
  let op := w.extractLsb' 0 7
  let f3 := w.extractLsb' 12 3
  let f5 := w.extractLsb' 27 5
  let rs1 := w.extractLsb' 15 5
  let rs2 := w.extractLsb' 20 5
  op = 0b1101111#7 ∧ w.extractLsb' 21 1 = 1#1 ∨
    op = 0b1100011#7 ∧ w.extractLsb' 8 1 = 1#1 ∨
    op = 0b1010011#7 ∧ w.extractLsb' 25 2 ≠ 0#2 ∨
    op = 0b1010011#7 ∧ f5 ∈ ([0b00000#5, 0b00001#5, 0b00010#5, 0b00011#5, 0b01011#5, 0b11010#5, 0b11000#5, 0b11100#5,
      0b11110#5] : List (BitVec 5)) ∧ f3 ≠ 0#3 ∨
    op = 0b1010011#7 ∧ f5 ∈ ([0b01011#5, 0b11000#5, 0b11100#5, 0b11010#5, 0b11110#5] : List (BitVec 5)) ∧ rs2 ≠ 0#5 ∨
    op = 0b1010011#7 ∧ f5 = 0b00100#5 ∧ rs2 ≠ rs1 ∨
    op = 0b0001011#7 ∧ (w.extractLsb' 25 7 ≠ 0#7 ∨ rs1 ≠ 0#5 ∨ w.extractLsb' 7 5 ≠ 0#5) ∨
    op = 0b0101011#7 ∧ (w.extractLsb' 20 12 ≠ 0#12 ∨ rs1 ≠ 0#5)

/-! ### States and runs -/

/-- The invariant: canonical memories and stored addresses, usable parameters, in either memory every word there whole or
not at all, and every word that counts as stored there. -/
def Invariant (s : State) : Prop :=
  s.wf = true ∧ s.imem.WholeWords ∧ s.dmem.WholeWords ∧ ∀ a ∈ s.stored, s.dmem.readWord a ≠ none

/-- An outcome with its next state, if it is one, changed. -/
def onNext (f : State → State) : Result → Result
  | .next t => .next (f t)
  | .fault r => .fault r
  | .refused r => .refused r

/-- The instruction that the next step runs, if there is one. -/
def nextInstr (s : State) : Option Instr :=
  match s.fetch with
  | .ok w => (decodeWith s.params.floorEncoding w).toOption
  | .error _ => none

/-- The byte that the next step takes from IN: the first one, if the step runs `ib` and there is one. -/
def byteTaken (s : State) : List Byte :=
  match nextInstr s with
  | some (.ib _) => s.input.take 1
  | _ => []

/-- The byte that the next step puts out: the low eight bits of the register that `ob` names. -/
def bytePut (s : State) : List Byte :=
  match nextInstr s with
  | some (.ob rs2) => [BitVec.ofNat 8 (s.readX rs2).toNat]
  | _ => []

/-- What `f` gives at each of the first `n` states of a run, in the order of the steps. -/
def alongRun (f : State → List Byte) : (n : Nat) → State → List Byte
  | 0, _ => []
  | n + 1, s =>
    f s ++
      match step s with
      | .next t => alongRun f n t
      | .fault _ => []
      | .refused _ => []

/-- The same state under another MEM_ORG (20_memory.md R45). -/
def withMemOrg (s : State) (org : MemOrg) : State := { s with params := { s.params with memOrg := org } }

/-- The end of a run under another MEM_ORG. -/
def endWithMemOrg (e : RunEnd) (org : MemOrg) : RunEnd :=
  match e with
  | .halted n s => .halted n (withMemOrg s org)
  | .waiting n s => .waiting n (withMemOrg s org)
  | .exhausted s => .exhausted (withMemOrg s org)
  | .faulted n r => .faulted n r
  | .refused n r => .refused n r

/-- Whether a run ended in a model outcome (00_scope.md R12). -/
def EndsInOutcome : RunEnd → Bool
  | .faulted .. | .refused .. => true
  | _ => false

end Sys2Proof.Claims

open Sys2Proof Sys2Proof.Machine Sys2Proof.Claims

/-! ## Encoding -/

/-- Decode after encode gives the instruction back, with every operand at every value its field admits. Field positions:
log 20; FLOOR_ENCODING: log 7. -/
def Obligations.DecodeOfEncodeIsIdentity : Prop :=
  ∀ (fe : FloorEncoding) (i : Instr), i.wf fe = true → decodeWith fe (encodeWith fe i) = .ok i

/-- A word that decodes is the encoding of what it decodes to: no instruction has a second word. FLOOR_ENCODING must be
usable and fix every bit that names no operand. Field positions: log 20; FLOOR_ENCODING: log 7. -/
def Obligations.EncodeOfDecodeIsIdentity : Prop :=
  ∀ (fe : FloorEncoding) (w : Word) (i : Instr), fe.wf = true → fe.mask ||| floorOperandBits = 0xFFFFFFFF#32 →
    decodeWith fe w = .ok i → encodeWith fe i = w

/-- The opcode table of R78 is exact, in both directions. Canonical fields: log 17; FLOOR_ENCODING: log 7. -/
def Obligations.OpcodeTableDecidesTheInstruction : Prop :=
  ∀ (fe : FloorEncoding) (w : Word) (i : Instr), fe.wf = true →
    (∀ j, decodeWith fe w = .ok j →
      (j.row fe).matches w = true ∧ (RepeatsSource j = true → w.extractLsb' 20 5 = w.extractLsb' 15 5)) ∧
    ((i.row fe).matches w = true → (RepeatsSource i = true → w.extractLsb' 20 5 = w.extractLsb' 15 5) →
      ∃ j, decodeWith fe w = .ok j ∧ j.row fe = i.row fe)

/-- No two rows of the table overlap (R78). FLOOR_ENCODING: log 7. -/
def Obligations.OpcodeTableRowsDoNotOverlap : Prop :=
  ∀ fe : FloorEncoding, fe.wf = true →
    (opcodeTable fe).length = 57 ∧ (opcodeTable fe).Pairwise (fun p q => ∀ w, ¬ (p.matches w = true ∧ q.matches w = true))

/-- The illegal words are exactly those R80 and R117 list, and a step on one is refused as illegal. Log 17. -/
def Obligations.ListedIllegalWordsAreRefused : Prop :=
  ∀ (s : State) (w : Word), s.fetch = .ok w → s.params.floorEncoding.fits w = false →
    (step s = .refused (.illegal w) ↔ ListedIllegal w)

/-- A word of a case of R82 that is not illegal is refused as not canonical, and every word that is in neither list and is
not `floor` decodes. Log 17. -/
def Obligations.ListedNonCanonicalWordsAreRefused : Prop :=
  ∀ (s : State) (w : Word), s.fetch = .ok w → s.params.floorEncoding.fits w = false →
    (step s = .refused (.nonCanonical w) ↔ ListedNonCanonical w ∧ ¬ ListedIllegal w) ∧
    (¬ ListedNonCanonical w → ¬ ListedIllegal w → ∃ i, decodeWith s.params.floorEncoding w = .ok i)

/-- Sample words of every family, from the examples of the spec, decode to the instruction they stand for. The word of
`floor` holds only under the provisional FLOOR_ENCODING, which is not the hardware's: log 7. The opcodes of `lui` and of the
floating-point group and the field positions are from general knowledge: log 20. -/
def Obligations.SampleWordsDecode : Prop :=
  decode 0x123462B7#32 = .ok (.lui 5 0x12346) ∧ decode 0x00001317#32 = .ok (.auipc 6 1) ∧
    decode 0xFF5FF0EF#32 = .ok (.jal 1 (-3)) ∧ decode 0xFFC280E7#32 = .ok (.jalr 1 5 (-4)) ∧
    decode 0x00208663#32 = .ok (.beq 1 2 3) ∧ decode 0x8041C063#32 = .ok (.blt 3 4 (-1024)) ∧
    decode 0x00232283#32 = .ok (.lw 5 6 2) ∧ decode 0x80742023#32 = .ok (.sw 7 8 (-2048)) ∧
    decode 0x80028293#32 = .ok (.addi 5 5 (-2048)) ∧ decode 0x4040D113#32 = .ok (.srai 2 1 4) ∧
    decode 0x402081B3#32 = .ok (.sub 3 1 2) ∧ decode 0x00412087#32 = .ok (.flw 1 2 4) ∧
    decode 0xFE112FA7#32 = .ok (.fsw 1 2 (-1)) ∧ decode 0x18D58253#32 = .ok (.fdiv 4 11 13) ∧
    decode 0x20B593D3#32 = .ok (.fneg 7 11) ∧ decode 0xC00E22D3#32 = .ok (.floor 5 28) ∧
    decode 0xA0B602D3#32 = .ok (.fle 5 12 11) ∧ decode 0xD00280D3#32 = .ok (.itof 1 5) ∧
    decode 0x0010000B#32 = .ok (.ob 1) ∧ decode 0x000040AB#32 = .ok (.ib 1)

/-- Images given as bytes: there is a word for every four bytes, and byte `4k` is bits 7:0 of word `k`, and so on
(20_memory.md R57, the spec's decision D22; log 3). -/
def Obligations.ImageWordsAreLittleEndian : Prop :=
  ∀ bytes : List Byte, (wordsOfBytes bytes).length = bytes.length / 4 ∧
    ∀ (k : Nat) (w : Word), (wordsOfBytes bytes)[k]? = some w →
    bytes[4 * k]? = some (w.extractLsb' 0 8) ∧ bytes[4 * k + 1]? = some (w.extractLsb' 8 8) ∧
      bytes[4 * k + 2]? = some (w.extractLsb' 16 8) ∧ bytes[4 * k + 3]? = some (w.extractLsb' 24 8)

/-! ## Registers -/

/-- `x0` reads as zero and takes no write; a write to a constant floating-point register changes nothing; every other
register of the two files reads back what was written to it and no write disturbs another (10_state.md R20, R21, R25,
R27). Discarded writes: log 22. -/
def Obligations.RegistersReadBack : Prop :=
  ∀ (s : State) (v : Word),
    (s.readX 0#5 = 0#32 ∧ s.writeX 0#5 v = s) ∧
    (∀ r : XReg, r ≠ 0#5 → (s.writeX r v).readX r = v) ∧
    (∀ r q : XReg, q ≠ r → (s.writeX r v).readX q = s.readX q) ∧
    (∀ r : FReg, WritableF r → (s.writeF r v).readF r = v) ∧
    (∀ r : FReg, ¬ WritableF r → s.writeF r v = s) ∧
    ∀ r q : FReg, q ≠ r → (s.writeF r v).readF q = s.readF q

/-- 10_state.md R26: the twenty constant registers read as the bit patterns of its table in every state, and those it
marks as generated by `lui` alone have low twelve bits zero. -/
def Obligations.ConstantRegistersReadTheirPatterns : Prop :=
  ∀ s : State,
    s.readF 0#5 = 0x00000000#32 ∧ s.readF 11#5 = 0x3F800000#32 ∧ s.readF 12#5 = 0x40000000#32 ∧
      s.readF 13#5 = 0x40800000#32 ∧ s.readF 14#5 = 0x41200000#32 ∧ s.readF 15#5 = 0x41700000#32 ∧
      s.readF 16#5 = 0x41A00000#32 ∧ s.readF 17#5 = 0x43000000#32 ∧ s.readF 18#5 = 0x43480000#32 ∧
      s.readF 19#5 = 0x437F0000#32 ∧ s.readF 20#5 = 0x44548000#32 ∧ s.readF 21#5 = 0x3DCCCCCD#32 ∧
      s.readF 22#5 = 0x3E4CCCCD#32 ∧ s.readF 23#5 = 0x3A83126F#32 ∧ s.readF 24#5 = 0x3BA3D70A#32 ∧
      s.readF 25#5 = 0x3E19999A#32 ∧ s.readF 26#5 = 0x3E800000#32 ∧ s.readF 27#5 = 0x3F000000#32 ∧
      s.readF 28#5 = 0x40490FDB#32 ∧ s.readF 29#5 = 0x4118C9EB#32 ∧
      ∀ r : FReg, 11 ≤ r.toNat ∧ r.toNat ≤ 20 ∨ r.toNat = 26 ∨ r.toNat = 27 → (s.readF r).extractLsb' 0 12 = 0#12

/-! ## Upper immediates and jumps -/

/-- `auipc` adds `imm << 12` to the word address of the instruction itself (40_upper_and_jumps.md R101). The positions of
the fields of the U format are from general knowledge: log 20. Under a FLOOR_ENCODING that overlaps the row the decoding is
the model's choice: log 7. -/
def Obligations.AuipcAddsToPc : Prop :=
  ∀ (s : State) (rd : XReg) (imm : BitVec 20),
    WordGivesX (imm ++ rd ++ 0b0010111#7) (.auipc rd imm) s rd (BitVec.ofNat 32 (s.pc.toNat + imm.toNat * 4096))

/-- `lui` puts the immediate into bits 31:12 (40_upper_and_jumps.md R100, whose opcode is the spec's correction C1;
log 20). Under a FLOOR_ENCODING that overlaps the row the decoding is the model's choice: log 7. -/
def Obligations.LuiSetsUpperBits : Prop :=
  ∀ (s : State) (rd : XReg) (imm : BitVec 20),
    WordGivesX (imm ++ rd ++ 0b0110111#7) (.lui rd imm) s rd (BitVec.ofNat 32 (imm.toNat * 4096))

/-- `jal` links `pc + 1` and jumps by the word offset; `jalr` links `pc + 1` and jumps to the old base register plus the
immediate, with no bit of the target cleared (40_upper_and_jumps.md R102, R103). Wrap of pc: log 19; reads before
writes: log 23. -/
def Obligations.JumpsLinkAndTransfer : Prop :=
  ∀ (s : State) (rd rs1 : XReg) (off : BitVec 19) (imm : BitVec 12),
    GivesX (.jal rd off) s rd (BitVec.ofNat 32 (s.pc.toNat + 1)) (BitVec.ofInt 32 (s.pc.toNat + off.toInt)) ∧
    GivesX (.jalr rd rs1 imm) s rd (BitVec.ofNat 32 (s.pc.toNat + 1))
      (BitVec.ofInt 32 ((s.readX rs1).toNat + imm.toInt))

/-- `auipc rt, hi` then `jalr rd, rt, lo` at word address `p` jumps to `p + (hi << 12) + s(lo)` and links `p + 2`; with
`lui` in place of `auipc` the target is `(hi << 12) + s(lo)` (40_upper_and_jumps.md R104, which derives it from R100,
R101 and R103). -/
def Obligations.FarJumpReachesItsTarget : Prop :=
  ∀ (s : State) (rt rd : XReg) (hi : BitVec 20) (lo : BitVec 12), rt ≠ 0#5 →
    (∃ t, exec (.auipc rt hi) s = .next t ∧
      GivesX (.jalr rd rt lo) t rd (BitVec.ofNat 32 (s.pc.toNat + 2))
        (BitVec.ofInt 32 (s.pc.toNat + hi.toNat * 4096 + lo.toInt))) ∧
    (∃ t, exec (.lui rt hi) s = .next t ∧
      GivesX (.jalr rd rt lo) t rd (BitVec.ofNat 32 (s.pc.toNat + 2)) (BitVec.ofInt 32 (hi.toNat * 4096 + lo.toInt)))

/-- `lui rd, (C + 0x800) >> 12` then `addi rd, rd, s(C[11:0])` builds any constant `C` (40_upper_and_jumps.md R100, which
derives it). -/
def Obligations.LuiAndAddiBuildAnyConstant : Prop :=
  ∀ (s : State) (rd : XReg) (c : Word), rd ≠ 0#5 →
    ∃ t u, exec (.lui rd ((c + 0x800#32).extractLsb' 12 20)) s = .next t ∧
      exec (.addi rd rd (c.extractLsb' 0 12)) t = .next u ∧ u.readX rd = c ∧ u.pc = s.pc + 2#32

/-! ## Branches -/

/-- `beq`, with its encoding, its condition and both outcomes (41_branches.md R110, R111). The bit positions of the B format
and the eleven-bit word offset are from general knowledge and the spec's correction C3: log 20 (30_encoding.md R68). Under a
FLOOR_ENCODING that overlaps the row the decoding is the model's choice: log 7. -/
def Obligations.BeqBranchesOnEqualBits : Prop :=
  ∀ (s : State) (rs1 rs2 : XReg) (off : BitVec 11),
    (∀ fe, decodeWith fe (branchWord 0b000#3 rs1 rs2 off) = .ok (.beq rs1 rs2 off)) ∧
    (s.readX rs1 = s.readX rs2 → GivesPc (.beq rs1 rs2 off) s (BitVec.ofInt 32 (s.pc.toNat + off.toInt))) ∧
    (s.readX rs1 ≠ s.readX rs2 → GivesPc (.beq rs1 rs2 off) s (BitVec.ofNat 32 (s.pc.toNat + 1)))

/-- `blt` compares signed numbers (41_branches.md R113, whose signedness the spec takes from general knowledge: log 21). -/
def Obligations.BltBranchesOnSignedLess : Prop :=
  ∀ (s : State) (rs1 rs2 : XReg) (off : BitVec 11),
    ((s.readX rs1).toInt < (s.readX rs2).toInt →
      GivesPc (.blt rs1 rs2 off) s (BitVec.ofInt 32 (s.pc.toNat + off.toInt))) ∧
    ((s.readX rs2).toInt ≤ (s.readX rs1).toInt →
      GivesPc (.blt rs1 rs2 off) s (BitVec.ofNat 32 (s.pc.toNat + 1)))

/-- The four branches the hardware lacks: in the machine of the source's specification they transfer control (41_branches.md
R112, R114 to R116; signedness: log 21), and the hardware refuses them (30_encoding.md R81, the spec's decision D8). The choice
of machine is the parameter of log 16. -/
def Obligations.SpecificationBranchesTransfer : Prop :=
  ∀ (s : State) (rs1 rs2 : XReg) (off : BitVec 11),
    let taken := BitVec.ofInt 32 (s.pc.toNat + off.toInt)
    let next := BitVec.ofNat 32 (s.pc.toNat + 1)
    let a := s.readX rs1
    let b := s.readX rs2
    (s.params.instrSet = .specification →
      GivesPc (.bne rs1 rs2 off) s (if a = b then next else taken) ∧
      GivesPc (.bge rs1 rs2 off) s (if b.toInt ≤ a.toInt then taken else next) ∧
      GivesPc (.bltu rs1 rs2 off) s (if a.toNat < b.toNat then taken else next) ∧
      GivesPc (.bgeu rs1 rs2 off) s (if b.toNat ≤ a.toNat then taken else next)) ∧
    (s.params.instrSet = .hardware →
      exec (.bne rs1 rs2 off) s = .refused (.unimplemented "bne") ∧
      exec (.bge rs1 rs2 off) s = .refused (.unimplemented "bge") ∧
      exec (.bltu rs1 rs2 off) s = .refused (.unimplemented "bltu") ∧
      exec (.bgeu rs1 rs2 off) s = .refused (.unimplemented "bgeu"))

/-- 42_loads_stores.md R121: the six sub-word instructions have no executable meaning; in every state, of the hardware and of
the source's specification, they are refused as unimplemented by name. -/
def Obligations.MissingInstructionsAreRefused : Prop :=
  ∀ (s : State) (a b : XReg) (imm : BitVec 12),
    exec (.lb a b imm) s = .refused (.unimplemented "lb") ∧ exec (.lh a b imm) s = .refused (.unimplemented "lh") ∧
    exec (.lbu a b imm) s = .refused (.unimplemented "lbu") ∧ exec (.lhu a b imm) s = .refused (.unimplemented "lhu") ∧
    exec (.sb a b imm) s = .refused (.unimplemented "sb") ∧ exec (.sh a b imm) s = .refused (.unimplemented "sh")

/-! ## Integer computation -/

/-- addi, xori, ori, andi, slli, srli with their encodings (43_op_imm.md R131, R134 to R138). The field positions and
`inst[31:25]` of slli and srli are from general knowledge: log 20 (30_encoding.md R63, R64, R76). Under a FLOOR_ENCODING that
overlaps a row the decoding is the model's choice: log 7. -/
def Obligations.ImmediateInstructionsCompute : Prop :=
  ∀ (s : State) (rd rs1 : XReg) (imm : BitVec 12) (shamt : BitVec 5),
    let a := s.readX rs1
    WordGivesX (opImmWord 0b000#3 rd rs1 imm) (.addi rd rs1 imm) s rd (BitVec.ofInt 32 (a.toInt + imm.toInt)) ∧
    WordGivesX (opImmWord 0b100#3 rd rs1 imm) (.xori rd rs1 imm) s rd (a ^^^ BitVec.ofInt 32 imm.toInt) ∧
    WordGivesX (opImmWord 0b110#3 rd rs1 imm) (.ori rd rs1 imm) s rd (a ||| BitVec.ofInt 32 imm.toInt) ∧
    WordGivesX (opImmWord 0b111#3 rd rs1 imm) (.andi rd rs1 imm) s rd (a &&& BitVec.ofInt 32 imm.toInt) ∧
    WordGivesX (shiftWord 0b0000000#7 0b001#3 rd rs1 shamt) (.slli rd rs1 shamt) s rd
      (BitVec.ofNat 32 (a.toNat * 2 ^ shamt.toNat)) ∧
    WordGivesX (shiftWord 0b0000000#7 0b101#3 rd rs1 shamt) (.srli rd rs1 shamt) s rd
      (BitVec.ofNat 32 (a.toNat / 2 ^ shamt.toNat))

/-- slti, sltiu and srai (43_op_imm.md R132, R133, R139). The signedness of the comparisons, the sign extension before an
unsigned comparison and the bit that tells srai from srli are from general knowledge: logs 20, 21. Under a FLOOR_ENCODING
that overlaps a row the decoding is the model's choice: log 7. -/
def Obligations.ImmediateComparisonsAndSraiCompute : Prop :=
  ∀ (s : State) (rd rs1 : XReg) (imm : BitVec 12) (shamt : BitVec 5),
    let a := s.readX rs1
    WordGivesX (opImmWord 0b010#3 rd rs1 imm) (.slti rd rs1 imm) s rd (oneIf (a.toInt < imm.toInt)) ∧
    WordGivesX (opImmWord 0b011#3 rd rs1 imm) (.sltiu rd rs1 imm) s rd
      (oneIf (a.toNat < (BitVec.ofInt 32 imm.toInt).toNat)) ∧
    WordGivesX (shiftWord 0b0100000#7 0b101#3 rd rs1 shamt) (.srai rd rs1 shamt) s rd
      (BitVec.ofInt 32 (a.toInt / 2 ^ shamt.toNat))

/-- add, sub, xor, or, and with their encodings (44_op.md R141, R142, R146, R149, R150). The field positions and the funct7
that tells sub from add are from general knowledge: log 20 (30_encoding.md R76). Under a FLOOR_ENCODING that overlaps a row
the decoding is the model's choice: log 7. -/
def Obligations.RegisterInstructionsCompute : Prop :=
  ∀ (s : State) (rd rs1 rs2 : XReg),
    let a := s.readX rs1
    let b := s.readX rs2
    WordGivesX (opWord 0b0000000#7 0b000#3 rd rs1 rs2) (.add rd rs1 rs2) s rd (BitVec.ofNat 32 (a.toNat + b.toNat)) ∧
    WordGivesX (opWord 0b0100000#7 0b000#3 rd rs1 rs2) (.sub rd rs1 rs2) s rd (BitVec.ofInt 32 (a.toInt - b.toInt)) ∧
    WordGivesX (opWord 0b0000000#7 0b100#3 rd rs1 rs2) (.xor rd rs1 rs2) s rd (a ^^^ b) ∧
    WordGivesX (opWord 0b0000000#7 0b110#3 rd rs1 rs2) (.or rd rs1 rs2) s rd (a ||| b) ∧
    WordGivesX (opWord 0b0000000#7 0b111#3 rd rs1 rs2) (.and rd rs1 rs2) s rd (a &&& b)

/-- sll, slt, sltu, srl, sra (44_op.md R143 to R145, R147, R148). The 5-bit shift amount, the signedness and funct7 are
from general knowledge: logs 20, 21. Under a FLOOR_ENCODING that overlaps a row the decoding is the model's choice: log 7. -/
def Obligations.RegisterShiftsAndComparisonsCompute : Prop :=
  ∀ (s : State) (rd rs1 rs2 : XReg),
    let a := s.readX rs1
    let b := s.readX rs2
    WordGivesX (opWord 0b0000000#7 0b001#3 rd rs1 rs2) (.sll rd rs1 rs2) s rd
      (BitVec.ofNat 32 (a.toNat * 2 ^ (b.toNat % 32))) ∧
    WordGivesX (opWord 0b0000000#7 0b010#3 rd rs1 rs2) (.slt rd rs1 rs2) s rd (oneIf (a.toInt < b.toInt)) ∧
    WordGivesX (opWord 0b0000000#7 0b011#3 rd rs1 rs2) (.sltu rd rs1 rs2) s rd (oneIf (a.toNat < b.toNat)) ∧
    WordGivesX (opWord 0b0000000#7 0b101#3 rd rs1 rs2) (.srl rd rs1 rs2) s rd
      (BitVec.ofNat 32 (a.toNat / 2 ^ (b.toNat % 32))) ∧
    WordGivesX (opWord 0b0100000#7 0b101#3 rd rs1 rs2) (.sra rd rs1 rs2) s rd
      (BitVec.ofInt 32 (a.toInt / 2 ^ (b.toNat % 32)))

/-! ## Memory -/

/-- `lw` and `flw` bring the word at `x[rs1] + sext(imm)` into their register, unchanged (42_loads_stores.md R124,
45_fp_load_store.md R161): a word of data memory outside the program region or under MEM_ORG separate, a word of the
program under unified. MEM_ORG: log 4; DMEM_WORDS: log 5; word addresses: log 18. -/
def Obligations.LoadsBringTheWord : Prop :=
  ∀ (s : State) (rd rs1 : XReg) (fd : FReg) (imm : BitVec 12) (v : Word),
    let a := s.readX rs1 + imm.signExtend 32
    a.toNat < s.params.dmemWords →
    (s.inProgram a = false ∨ s.params.memOrg = .separate) ∧ s.dmem.readWord a = some v ∨
      s.params.memOrg = .unified ∧ s.imem.readWord a = some v →
    GivesX (.lw rd rs1 imm) s rd v (s.pc + 1#32) ∧ GivesF (.flw fd rs1 imm) s fd v

/-- When `lw` and `flw` stop: BadAddress beyond DMEM_WORDS and, with MEM_ORG not fixed, in the program region
(20_memory.md R45, R48); Unwritten where the word holds no value (10_state.md R35). The spec's decisions D2, D3, D27;
logs 2, 4, 5, 29. -/
def Obligations.LoadsStopWhereThereIsNoWord : Prop :=
  ∀ (s : State) (rd rs1 : XReg) (fd : FReg) (imm : BitVec 12),
    let a := s.readX rs1 + imm.signExtend 32
    (s.params.dmemWords ≤ a.toNat ∨ s.params.memOrg = .unfixed ∧ s.inProgram a = true →
      exec (.lw rd rs1 imm) s = .fault (.badAddress a) ∧ exec (.flw fd rs1 imm) s = .fault (.badAddress a)) ∧
    (a.toNat < s.params.dmemWords → (s.inProgram a = false ∨ s.params.memOrg = .separate) →
      s.dmem.readWord a = none →
      exec (.lw rd rs1 imm) s = .refused (.unwritten a) ∧ exec (.flw fd rs1 imm) s = .refused (.unwritten a))

/-- `sw` and `fsw` store all 32 bits of their register in the word at `x[rs1] + sext(imm)` and no byte elsewhere
(42_loads_stores.md R129, 45_fp_load_store.md R162). MEM_ORG: log 4; DMEM_WORDS: log 5; word addresses: log 18. -/
def Obligations.StoresPutTheWord : Prop :=
  ∀ (s : State) (rs2 rs1 : XReg) (fs2 : FReg) (imm : BitVec 12),
    let a := s.readX rs1 + imm.signExtend 32
    a.toNat < s.params.dmemWords → (s.inProgram a = false ∨ s.params.memOrg = .separate) →
    GivesWord (.sw rs2 rs1 imm) s a (s.readX rs2) ∧ GivesWord (.fsw fs2 rs1 imm) s a (s.readF fs2)

/-- When `sw` and `fsw` stop: BadAddress beyond DMEM_WORDS and, unless MEM_ORG is separate, in the program region
(20_memory.md R45, R48, R53, the spec's decisions D2, D3; logs 4, 5). -/
def Obligations.StoresStopOutsideDataMemory : Prop :=
  ∀ (s : State) (rs2 rs1 : XReg) (fs2 : FReg) (imm : BitVec 12),
    let a := s.readX rs1 + imm.signExtend 32
    (s.params.dmemWords ≤ a.toNat ∨ s.params.memOrg ≠ .separate ∧ s.inProgram a = true) →
    exec (.sw rs2 rs1 imm) s = .fault (.badAddress a) ∧ exec (.fsw fs2 rs1 imm) s = .fault (.badAddress a)

/-- A load returns the value of the store before it to the same word address, from either register file to either, and a
load of another word address is not affected (20_memory.md R50, R55, the spec's decision D20; log 24). -/
def Obligations.LoadReturnsTheLatestStore : Prop :=
  ∀ (s t : State) (i : Instr) (rs1 q1 rd : XReg) (fd : FReg) (imm jmm : BitVec 12) (v : Word),
    (∃ rs2, i = .sw rs2 rs1 imm ∧ v = s.readX rs2) ∨ (∃ fs2, i = .fsw fs2 rs1 imm ∧ v = s.readF fs2) →
    exec i s = .next t →
    let a := s.readX rs1 + imm.signExtend 32
    let b := t.readX q1 + jmm.signExtend 32
    (b = a → GivesX (.lw rd q1 jmm) t rd v (t.pc + 1#32) ∧ GivesF (.flw fd q1 jmm) t fd v) ∧
    (b ≠ a → t.load b = s.load b)

/-! ## Floating point -/

/-- fadd, fsub, fmul, fdiv and fsqrt write the configuration function of their operands and change nothing else
(46_fp_compute.md R171 to R175). Which function: the free one or the recommended one of R190, as the parameter of log 9
says; the functions' one property is log 8. -/
def Obligations.FloatArithmeticGivesItsFunction : Prop :=
  ∀ (s : State) (rd rs1 rs2 : FReg),
    let a := s.readF rs1
    let b := s.readF rs2
    (s.params.numerics = .unfixed →
      GivesF (.fadd rd rs1 rs2) s rd (Config.fadd32 a b) ∧ GivesF (.fsub rd rs1 rs2) s rd (Config.fsub32 a b) ∧
      GivesF (.fmul rd rs1 rs2) s rd (Config.fmul32 a b) ∧ GivesF (.fdiv rd rs1 rs2) s rd (Config.fdiv32 a b) ∧
      GivesF (.fsqrt rd rs1) s rd (Config.fsqrt32 a)) ∧
    (s.params.numerics = .ieee754 →
      GivesF (.fadd rd rs1 rs2) s rd (Ieee.add a b) ∧ GivesF (.fsub rd rs1 rs2) s rd (Ieee.sub a b) ∧
      GivesF (.fmul rd rs1 rs2) s rd (Ieee.mul a b) ∧ GivesF (.fdiv rd rs1 rs2) s rd (Ieee.div a b) ∧
      GivesF (.fsqrt rd rs1) s rd (Ieee.sqrt a))

/-- A floating-point result depends on the operand patterns and the fixed parameters alone: in two states that agree on
them the same instruction writes the same value (46_fp_compute.md R170, the spec's decision D13; logs 8 to 13). -/
def Obligations.FloatResultsDependOnOperandsAlone : Prop :=
  ∀ (s t s' t' : State) (i : Instr) (a b : FReg) (n : XReg),
    s.readF a = t.readF a → s.readF b = t.readF b → s.readX n = t.readX n → s.params = t.params →
    exec i s = .next s' → exec i t = .next t' →
    (∀ rd : FReg, WritableF rd → i = .fadd rd a b ∨ i = .fsub rd a b ∨ i = .fmul rd a b ∨ i = .fdiv rd a b ∨
      i = .fsqrt rd a ∨ i = .itof rd n → s'.readF rd = t'.readF rd) ∧
    (∀ rd : XReg, i = .ftoi rd a ∨ i = .floor rd a ∨ i = .feq rd a b ∨ i = .flt rd a b ∨ i = .fle rd a b →
      s'.readX rd = t'.readX rd)

/-- fmv.f.f, fneg and fabs act on the bits alone: all 32 copied, bit 31 flipped, bit 31 cleared (46_fp_compute.md R176 to
R179, whose pure bit reading the spec takes from general knowledge: log 27). The opcode (the spec's correction C2), the place
of funct5 and the field positions are from general knowledge: log 20; that rs2 repeats rs1 is the decision D11: log 17.
Under a FLOOR_ENCODING that overlaps a row the decoding is the model's choice: log 7. -/
def Obligations.SignInstructionsActOnBits : Prop :=
  ∀ (s : State) (rd rs1 : FReg),
    let b := s.readF rs1
    (∀ fe, decodeWith fe (fpWord 0b00100#5 0b000#3 rd rs1 rs1) = .ok (.fmvff rd rs1) ∧
      decodeWith fe (fpWord 0b00100#5 0b001#3 rd rs1 rs1) = .ok (.fneg rd rs1) ∧
      decodeWith fe (fpWord 0b00100#5 0b010#3 rd rs1 rs1) = .ok (.fabs rd rs1)) ∧
    GivesF (.fmvff rd rs1) s rd b ∧
    GivesF (.fneg rd rs1) s rd (~~~(b.extractLsb' 31 1) ++ b.extractLsb' 0 31) ∧
    GivesF (.fabs rd rs1) s rd (0#1 ++ b.extractLsb' 0 31)

/-- ftox and xtof copy the 32 bits between the register files, with their encodings (46_fp_compute.md R181, R187). The opcode
(the spec's correction C2) and the place of funct5 are from general knowledge: log 20. Under a FLOOR_ENCODING that overlaps a
row the decoding is the model's choice: log 7. -/
def Obligations.MovesBetweenFilesCopyBits : Prop :=
  ∀ (s : State) (x1 : XReg) (f1 : FReg),
    (∀ fe, decodeWith fe (fpWord 0b11100#5 0b000#3 x1 f1 0#5) = .ok (.ftox x1 f1) ∧
      decodeWith fe (fpWord 0b11110#5 0b000#3 f1 x1 0#5) = .ok (.xtof f1 x1)) ∧
    GivesX (.ftox x1 f1) s x1 (s.readF f1) (s.pc + 1#32) ∧ GivesF (.xtof f1 x1) s f1 (s.readX x1)

/-- `ftoi` on a value that is no tie gives the nearest integer, where that has a 32-bit pattern (46_fp_compute.md R180 items
1 and 2, the spec's decision D14; log 11), and on every operand it completes, writing one register. -/
def Obligations.FtoiGivesTheNearestInteger : Prop :=
  ∀ (s : State) (rd : XReg) (rs1 : FReg),
    let b := s.readF rs1
    (∃ v, GivesX (.ftoi rd rs1) s rd v (s.pc + 1#32)) ∧
    ∀ n : ℤ, HasVal b → InInt32 n → |val b - n| < 1 / 2 → GivesX (.ftoi rd rs1) s rd (BitVec.ofInt 32 n) (s.pc + 1#32)

/-- `ftoi` on a tie gives the neighbour FTOI_TIE names, and one of the two where the parameter is not fixed
(46_fp_compute.md R180 item 3, the spec's decision D14; log 10). -/
def Obligations.FtoiBreaksTiesAsTheParameterSays : Prop :=
  ∀ (s : State) (rd : XReg) (rs1 : FReg) (n : ℤ),
    HasVal (s.readF rs1) → InInt32 n → InInt32 (n + 1) → val (s.readF rs1) = n + 1 / 2 →
    let gives := fun k : ℤ => GivesX (.ftoi rd rs1) s rd (BitVec.ofInt 32 k) (s.pc + 1#32)
    (s.params.ftoiTie = .even → gives (if n % 2 = 0 then n else n + 1)) ∧
    (s.params.ftoiTie = .towardZero → gives (if n < 0 then n + 1 else n)) ∧
    (s.params.ftoiTie = .away → gives (if n < 0 then n else n + 1)) ∧
    (s.params.ftoiTie = .unfixed → gives n ∨ gives (n + 1))

/-- `floor` gives the greatest integer not above the value, where that has a 32-bit pattern (46_fp_compute.md R188, with
the spec's decision D14; log 11), and on every operand it completes, writing one register. -/
def Obligations.FloorGivesTheGreatestIntegerBelow : Prop :=
  ∀ (s : State) (rd : XReg) (rs1 : FReg),
    let b := s.readF rs1
    (∃ v, GivesX (.floor rd rs1) s rd v (s.pc + 1#32)) ∧
    ∀ n : ℤ, HasVal b → InInt32 n → n ≤ val b → val b < n + 1 →
      GivesX (.floor rd rs1) s rd (BitVec.ofInt 32 n) (s.pc + 1#32)

/-- `itof` of an integer binary32 can hold gives that number, 0 giving +0; of any other, one of the two binary32 numbers
next to it, and under the recommended instantiation the integer rounded to nearest, ties to even (46_fp_compute.md R186,
R190, the spec's decision D26; logs 9, 12). -/
def Obligations.ItofGivesTheNumberOrANeighbour : Prop :=
  ∀ (s : State) (rd : FReg) (rs1 : XReg),
    let n := (s.readX rs1).toInt
    ∃ v, GivesF (.itof rd rs1) s rd v ∧ HasVal v ∧ (n = 0 → v = 0#32) ∧
      (∀ c, HasVal c → val c = n → val v = n) ∧
      (∀ c, HasVal c → ¬ (val v < val c ∧ val c ≤ n) ∧ ¬ (n ≤ val c ∧ val c < val v)) ∧
      (s.params.numerics = .ieee754 → RoundsTo (n : ℝ) v)

/-- The comparisons write 1 or 0 by value where each operand is zero or normal, the two zeros equal; `feq` of equal
patterns that are no NaN is 1; other operands give 1 or 0 (46_fp_compute.md R182 to R185, the spec's decision D15;
log 13). -/
def Obligations.ComparisonsAreByValue : Prop :=
  ∀ (s : State) (rd : XReg) (rs1 rs2 : FReg),
    let a := s.readF rs1
    let b := s.readF rs2
    (∃ p q r : Bool, GivesX (.feq rd rs1 rs2) s rd (oneIf (p = true)) (s.pc + 1#32) ∧
      GivesX (.flt rd rs1 rs2) s rd (oneIf (q = true)) (s.pc + 1#32) ∧
      GivesX (.fle rd rs1 rs2) s rd (oneIf (r = true)) (s.pc + 1#32)) ∧
    (ZeroOrNormal a → ZeroOrNormal b →
      GivesX (.feq rd rs1 rs2) s rd (oneIf (val a = val b)) (s.pc + 1#32) ∧
      GivesX (.flt rd rs1 rs2) s rd (oneIf (val a < val b)) (s.pc + 1#32) ∧
      GivesX (.fle rd rs1 rs2) s rd (oneIf (val a ≤ val b)) (s.pc + 1#32)) ∧
    (a = b → ¬ IsNaN a → GivesX (.feq rd rs1 rs2) s rd 1#32 (s.pc + 1#32))

/-- Under the recommended instantiation the comparisons follow IEEE 754: subnormals compare by value, an infinity lies
beyond every number and equals itself alone, and every comparison with a NaN gives 0 (46_fp_compute.md R182, R190, from
general knowledge; logs 9, 13). -/
def Obligations.RecommendedComparisonsFollowIeee : Prop :=
  ∀ (s : State) (rd : XReg) (rs1 rs2 : FReg), s.params.numerics = .ieee754 →
    let a := s.readF rs1
    let b := s.readF rs2
    let gives := fun equal less lessOrEqual : Word =>
      GivesX (.feq rd rs1 rs2) s rd equal (s.pc + 1#32) ∧ GivesX (.flt rd rs1 rs2) s rd less (s.pc + 1#32) ∧
        GivesX (.fle rd rs1 rs2) s rd lessOrEqual (s.pc + 1#32)
    (HasVal a → HasVal b → gives (oneIf (val a = val b)) (oneIf (val a < val b)) (oneIf (val a ≤ val b))) ∧
    (∀ minus, a = infinityOf minus → HasVal b → gives 0#32 (oneIf (minus = true)) (oneIf (minus = true))) ∧
    (∀ minus, HasVal a → b = infinityOf minus → gives 0#32 (oneIf (minus = false)) (oneIf (minus = false))) ∧
    (∀ minus minus', a = infinityOf minus → b = infinityOf minus' →
      gives (oneIf (minus = minus')) (oneIf (minus = true ∧ minus' = false)) (oneIf (minus = true ∨ minus' = false))) ∧
    (IsNaN a ∨ IsNaN b → gives 0#32 0#32 0#32)

/-- Under the recommended instantiation the five operations are exact where binary32 holds the exact result: a result that
is not zero is that number, and a zero result is the zero of IEEE 754's sign, +0 for a sum or difference that cancels, the
signs' product for a product or quotient, the operand itself for a root (46_fp_compute.md R190, from general knowledge and
the spec's decision D13; log 9). -/
def Obligations.RecommendedArithmeticIsExactWhereItCanBe : Prop :=
  ∀ (s : State) (rd rs1 rs2 : FReg), s.params.numerics = .ieee754 →
    let a := s.readF rs1
    let b := s.readF rs2
    HasVal a → HasVal b →
    (∀ c : Word, HasVal c → val c ≠ 0 →
      (val c = val a + val b → GivesF (.fadd rd rs1 rs2) s rd c) ∧
      (val c = val a - val b → GivesF (.fsub rd rs1 rs2) s rd c) ∧
      (val c = val a * val b → GivesF (.fmul rd rs1 rs2) s rd c) ∧
      (val b ≠ 0 → val c = val a / val b → GivesF (.fdiv rd rs1 rs2) s rd c) ∧
      (0 < val c → val c * val c = val a → GivesF (.fsqrt rd rs1) s rd c)) ∧
    (val a + val b = 0 → GivesF (.fadd rd rs1 rs2) s rd (zeroOf (a == zeroOf true && b == zeroOf true))) ∧
    (val a - val b = 0 → GivesF (.fsub rd rs1 rs2) s rd (zeroOf (a == zeroOf true && b == zeroOf false))) ∧
    (val a * val b = 0 → GivesF (.fmul rd rs1 rs2) s rd (zeroOf (a.getLsbD 31 != b.getLsbD 31))) ∧
    (val a = 0 → val b ≠ 0 → GivesF (.fdiv rd rs1 rs2) s rd (zeroOf (a.getLsbD 31 != b.getLsbD 31))) ∧
    (val a = 0 → GivesF (.fsqrt rd rs1) s rd a)

/-- Under the recommended instantiation fadd, fsub and fmul round the exact result to nearest, ties to even, with overflow
to infinity (46_fp_compute.md R190, from general knowledge and the spec's decision D13; log 9). -/
def Obligations.RecommendedArithmeticRoundsToNearest : Prop :=
  ∀ (s : State) (rd rs1 rs2 : FReg), s.params.numerics = .ieee754 →
    let a := s.readF rs1
    let b := s.readF rs2
    HasVal a → HasVal b →
    (∃ r, GivesF (.fadd rd rs1 rs2) s rd r ∧ RoundsTo ((val a + val b : ℚ) : ℝ) r) ∧
    (∃ r, GivesF (.fsub rd rs1 rs2) s rd r ∧ RoundsTo ((val a - val b : ℚ) : ℝ) r) ∧
    (∃ r, GivesF (.fmul rd rs1 rs2) s rd r ∧ RoundsTo ((val a * val b : ℚ) : ℝ) r)

/-- Under the recommended instantiation fdiv by a number that is not zero and fsqrt of a number that is not negative round
the exact quotient and the exact root to nearest, ties to even, with overflow to infinity (46_fp_compute.md R190, from
general knowledge and the spec's decision D13; log 9). -/
def Obligations.RecommendedQuotientsAndRootsRoundToNearest : Prop :=
  ∀ (s : State) (rd rs1 rs2 : FReg), s.params.numerics = .ieee754 →
    let a := s.readF rs1
    let b := s.readF rs2
    HasVal a →
    (HasVal b → val b ≠ 0 → ∃ r, GivesF (.fdiv rd rs1 rs2) s rd r ∧ RoundsTo ((val a / val b : ℚ) : ℝ) r) ∧
    (0 ≤ val a → ∃ r, GivesF (.fsqrt rd rs1) s rd r ∧ RoundsTo (Real.sqrt (val a : ℝ)) r)

/-- Under the recommended instantiation the operands and cases that have no exact number give IEEE 754's default results: a NaN
operand gives a NaN; an infinity absorbs a number in a sum or difference; two infinities that cancel, a zero times an infinity,
`inf / inf`, `0 / 0` and the square root of a number below zero or of minus infinity give NaNs; other products with an infinity,
`inf / x` and `x / 0` are the infinity and `x / inf` the zero of the signs' product; the root of plus infinity is itself
(46_fp_compute.md R190, from general knowledge, and the spec's decision D13; the sign and payload of a NaN are open; log 9). -/
def Obligations.RecommendedExceptionalResults : Prop :=
  ∀ (s : State) (rd rs1 rs2 : FReg), s.params.numerics = .ieee754 →
    let a := s.readF rs1
    let b := s.readF rs2
    let product := a.getLsbD 31 != b.getLsbD 31
    (IsNaN a ∨ IsNaN b →
      GivesNaN (.fadd rd rs1 rs2) s rd ∧ GivesNaN (.fsub rd rs1 rs2) s rd ∧ GivesNaN (.fmul rd rs1 rs2) s rd ∧
        GivesNaN (.fdiv rd rs1 rs2) s rd) ∧
    (IsInfinite a → HasVal b → GivesF (.fadd rd rs1 rs2) s rd a ∧ GivesF (.fsub rd rs1 rs2) s rd a) ∧
    (HasVal a → IsInfinite b →
      GivesF (.fadd rd rs1 rs2) s rd b ∧ GivesF (.fsub rd rs1 rs2) s rd (infinityOf (!b.getLsbD 31))) ∧
    (IsInfinite a → IsInfinite b → product = false →
      GivesF (.fadd rd rs1 rs2) s rd a ∧ GivesNaN (.fsub rd rs1 rs2) s rd) ∧
    (IsInfinite a → IsInfinite b → product = true →
      GivesNaN (.fadd rd rs1 rs2) s rd ∧ GivesF (.fsub rd rs1 rs2) s rd a) ∧
    (IsInfinite a ∧ IsZero b ∨ IsZero a ∧ IsInfinite b → GivesNaN (.fmul rd rs1 rs2) s rd) ∧
    (IsInfinite a ∧ ¬ IsZero b ∧ ¬ IsNaN b ∨ IsInfinite b ∧ ¬ IsZero a ∧ ¬ IsNaN a →
      GivesF (.fmul rd rs1 rs2) s rd (infinityOf product)) ∧
    (IsInfinite a ∧ IsInfinite b ∨ IsZero a ∧ IsZero b → GivesNaN (.fdiv rd rs1 rs2) s rd) ∧
    (IsInfinite a ∧ HasVal b ∨ HasVal a ∧ ¬ IsZero a ∧ IsZero b → GivesF (.fdiv rd rs1 rs2) s rd (infinityOf product)) ∧
    (HasVal a → IsInfinite b → GivesF (.fdiv rd rs1 rs2) s rd (zeroOf product)) ∧
    (a = infinityOf false → GivesF (.fsqrt rd rs1) s rd a) ∧
    (IsNaN a ∨ a = infinityOf true ∨ HasVal a ∧ val a < 0 → GivesNaN (.fsqrt rd rs1) s rd)

/-! ## Input and output -/

/-- `ob` appends the low eight bits of its register to OUT and changes nothing else but pc (47_io.md R201). It always
succeeds: the spec's decision D16; log 15. -/
def Obligations.ObAppendsOneByte : Prop :=
  ∀ (s : State) (rs2 : XReg),
    ∃ t, exec (.ob rs2) s = .next t ∧ t.output = s.output ++ [BitVec.ofNat 8 (s.readX rs2).toNat] ∧
      t.pc = s.pc + 1#32 ∧ t.input = s.input ∧ SameX s t ∧ SameF s t ∧ SameData s t ∧ SameProgram s t

/-- `ib` takes the next byte of IN, zero-extended, and changes nothing else but pc; `ib x0` takes a byte and discards it
(47_io.md R202). Discarded writes: log 22. -/
def Obligations.IbTakesTheNextByte : Prop :=
  ∀ (s : State) (rd : XReg) (b : Byte) (rest : List Byte), s.input = b :: rest →
    ∃ t, exec (.ib rd) s = .next t ∧ t.input = rest ∧ OnlyX s t rd (BitVec.ofNat 32 b.toNat) ∧
      t.pc = s.pc + 1#32 ∧ t.output = s.output ∧ SameF s t ∧ SameData s t ∧ SameProgram s t

/-- `ib` with no input: the core stays where it is with nothing changed, however often it is stepped, and once the
environment supplies a byte the instruction completes with that byte (47_io.md R203, the spec's decision D16; the waiting
step is the model's: log 14). -/
def Obligations.IbWaitsForInput : Prop :=
  ∀ (s : State) (w : Word) (rd : XReg) (b : Byte) (n : Nat),
    s.fetch = .ok w → decodeWith s.params.floorEncoding w = .ok (.ib rd) → s.input = [] →
    s.waits = true ∧ Sys2Proof.core.run n s = .next s ∧
      ∃ t, step (s.supply b) = .next t ∧ t.input = [] ∧ t.pc = s.pc + 1#32 ∧ OnlyX s t rd (BitVec.ofNat 32 b.toNat) ∧
        t.output = s.output

/-- Along any run of `n` steps the bytes taken from the front of IN are the ones that the executed `ib` instructions take,
one each and in their order, and the bytes appended to OUT are the low bytes of the registers of the executed `ob`
instructions, one each and in their order; an `ib` reached after them gets into its register the byte of IN whose number is
the count of those taken before: no byte is duplicated, reordered or dropped (47_io.md R204, 20_memory.md R56, the spec's
decision D16; logs 14, 15). -/
def Obligations.StreamsKeepTheirOrder : Prop :=
  ∀ (n : Nat) (s t : State), Sys2Proof.core.run n s = .next t →
    s.input = alongRun byteTaken n s ++ t.input ∧ t.output = s.output ++ alongRun bytePut n s ∧
    (alongRun byteTaken n s).length + (alongRun bytePut n s).length ≤ n ∧
    ∀ (u : State) (rd : XReg), nextInstr t = some (.ib rd) → step t = .next u → t.input ≠ [] →
      ∃ b, s.input[(alongRun byteTaken n s).length]? = some b ∧ OnlyX t u rd (BitVec.ofNat 32 b.toNat)

/-! ## The machine -/

/-- 20_memory.md R46: a step fetches the word of IMem at pc; where the fetched word decodes to an instruction, the step is
that instruction's effect and nothing more; and as every instruction is one word long, the instruction after one that does
not jump is at `pc + 1`. An `ib` with no input, which waits, is outside the last clause: log 14. -/
def Obligations.StepRunsTheDecodedInstruction : Prop :=
  ∀ (s : State) (w : Word),
    (s.pc.toNat < s.params.imemWords → s.imem.readWord s.pc = some w → s.fetch = .ok w) ∧
    ∀ i : Instr, s.fetch = .ok w → decodeWith s.params.floorEncoding w = .ok i →
      step s = exec i s ∧
      ∀ t, exec i s = .next t → TransfersControl i = false → ((∃ rd, i = .ib rd) → s.input ≠ []) →
        s.pc.toNat + 1 < 2 ^ 32 → t.pc.toNat = s.pc.toNat + 1

/-- A fetch at or beyond IMEM_WORDS is BadAddress of pc, and so is one of a word the program does not cover, unless MEM_ORG
is unified and pc is at a data word that no store of this run has written: that word is fetched (20_memory.md R45, R48, R53,
70_reset_and_hazards.md R241, the spec's decisions D2, D3; logs 4, 5, 30). -/
def Obligations.FetchOutsideTheProgramFaults : Prop :=
  ∀ s : State,
    (s.params.imemWords ≤ s.pc.toNat ∨
        s.imem.readWord s.pc = none ∧
          (s.params.memOrg ≠ .unified ∨ s.dmem.readWord s.pc = none ∨ s.pc ∈ s.stored) →
      step s = .fault (.badAddress s.pc)) ∧
    ∀ w : Word, s.pc.toNat < s.params.imemWords → s.imem.readWord s.pc = none → s.params.memOrg = .unified →
      s.dmem.readWord s.pc = some w → s.pc ∉ s.stored → s.fetch = .ok w

/-- An instruction placed at pc is the one the next step runs (the loading of a program from outside: log 6). -/
def Obligations.PlacedInstructionRunsNext : Prop :=
  ∀ (s : State) (i : Instr), i.wf s.params.floorEncoding = true →
    let t := s.withFetchWord 32 (encodeWith s.params.floorEncoding i).toNat
    step t = exec i t ∧ t.pc = s.pc ∧ SameX s t ∧ SameF s t ∧ SameData s t ∧ SameIo s t

/-- A launched program stands at word addresses 0, 1, 2, ... and a fetch at every other address faults, unless MEM_ORG is
unified and the data image gives that address a word (10_state.md R34, 20_memory.md R45, 70_reset_and_hazards.md R232, R241,
the spec's decisions D2, D17; logs 4, 6). -/
def Obligations.LaunchedProgramIsFetched : Prop :=
  ∀ (l : Launch) (a : Word), l.program.length ≤ 2 ^ 32 → l.program.length ≤ l.params.imemWords →
    ({ State.launch l with pc := a } : State).fetch =
      match l.program[a.toNat]? with
      | some w => .ok w
      | none =>
        match l.params.memOrg, l.data.reverse.lookup a with
        | .unified, some w => if a.toNat < l.params.imemWords then .ok w else .error (.badAddress a)
        | _, _ => .error (.badAddress a)

/-- The invariant is kept by every step: both memories stay canonical and made of whole words, the stored words stay words
of data memory, and the parameters stay usable (20_memory.md R40, R48; the list form and the record of stored words are the
model's: logs 3, 30). -/
def Obligations.EveryStepKeepsTheInvariant : Prop :=
  ∀ s t : State, Invariant s → step s = .next t → Invariant t

/-- The reset state has the invariant (logs 3, 30). -/
def Obligations.ResetHasTheInvariant : Prop := Invariant State.reset

/-- The reset state: pc 0, x0 zero, nothing in either memory, no input, no output (10_state.md R34, the spec's decision
D17). The zero of the other registers and the parameters are the model's choice: logs 1, 4, 5, 6, 7, 9, 10,
16, 30. -/
def Obligations.ResetStateIsAsListed : Prop :=
  State.reset.pc = 0#32 ∧ (∀ r, State.reset.readX r = 0#32) ∧ (∀ r, WritableF r → State.reset.readF r = 0#32) ∧
    State.reset.imem = [] ∧ State.reset.dmem = [] ∧ State.reset.stored = [] ∧ State.reset.input = [] ∧ State.reset.output = [] ∧
    State.reset.params.instrSet = .hardware ∧ State.reset.params.memOrg = .unfixed ∧
    State.reset.params.imemWords = 2 ^ 32 ∧ State.reset.params.dmemWords = 2 ^ 32 ∧
    State.reset.params.floorEncoding.pattern = 0xC0002053#32 ∧ State.reset.params.floorEncoding.mask = 0xFFF0707F#32 ∧
    State.reset.params.ftoiTie = .unfixed ∧ State.reset.params.numerics = .unfixed

/-- No step changes the program or a parameter of the run, whatever MEM_ORG is (20_memory.md R45, R53; logs 4, 28). -/
def Obligations.ProgramAndParametersNeverChange : Prop :=
  ∀ (n : Nat) (s t : State), Sys2Proof.core.run n s = .next t → t.imem = s.imem ∧ t.params = s.params

/-- Every instruction but the jumps and branches goes to the next word, `ib` with no input excepted, which waits
(10_state.md R23; the waiting step: log 14). -/
def Obligations.OnlyJumpsAndBranchesRedirect : Prop :=
  ∀ (i : Instr) (s t : State), exec i s = .next t → TransfersControl i = false →
    t.pc = s.pc + 1#32 ∨ (∃ rd, i = .ib rd) ∧ s.input = [] ∧ t = s

/-- Of the effects of the instructions (`exec`; the fetch of the step is apart, which under MEM_ORG unified reads data memory
too: log 4) only those of `lw` and `flw` read data memory and only those of `sw` and `fsw` write it, and under MEM_ORG separate
none depends on instruction memory (10_state.md R32). The last clause gives the four their words over the whole of DMEM_WORDS
(20_memory.md R41, R45, R48, the spec's decisions D1, D2, D3; logs 4, 5, 18; discarded writes: log 22; the record of stored
words: log 30). -/
def Obligations.OnlyStoresChangeDataMemory : Prop :=
  ∀ (i : Instr) (s : State),
    (∀ t, exec i s = .next t → t.dmem ≠ s.dmem →
      (∃ rs2 rs1 imm, i = .sw rs2 rs1 imm) ∨ (∃ rs2 rs1 imm, i = .fsw rs2 rs1 imm)) ∧
    (ReadsMemory i = false → ∀ m : Memory, ∃ m' : Memory,
      exec i { s with dmem := m } = onNext (fun t => { t with dmem := m' }) (exec i s)) ∧
    (s.params.memOrg = .separate →
      (∀ m : Memory, exec i { s with imem := m } = onNext (fun t => { t with imem := m }) (exec i s)) ∧
      ∀ (rd rs1 rs2 : XReg) (fd fs2 : FReg) (imm : BitVec 12) (v : Word),
        let a := s.readX rs1 + imm.signExtend 32
        a.toNat < s.params.dmemWords →
        (s.dmem.readWord a = some v → GivesX (.lw rd rs1 imm) s rd v (s.pc + 1#32) ∧ GivesF (.flw fd rs1 imm) s fd v) ∧
        GivesWord (.sw rs2 rs1 imm) s a (s.readX rs2) ∧ GivesWord (.fsw fs2 rs1 imm) s a (s.readF fs2))

/-- No instruction writes more than one register of the two files together (10_state.md R29 for the floating-point
instructions; 40_upper_and_jumps.md R100 to R103, 41_branches.md R110, 42_loads_stores.md R120, 43_op_imm.md R130, 44_op.md
R140, 47_io.md R201 and R202 for the others). -/
def Obligations.AtMostOneRegisterIsWritten : Prop :=
  ∀ (i : Instr) (s t : State), exec i s = .next t →
    (∃ r : XReg, SameF s t ∧ ∀ q, q ≠ r → t.readX q = s.readX q) ∨
      (∃ r : FReg, SameX s t ∧ ∀ q, q ≠ r → t.readF q = s.readF q)

/-- Nothing traps: every instruction that does not access memory and is in the hardware completes in every state, and a
fault is only ever the BadAddress of a memory access (60_exceptions.md R210, R211, R218, the spec's decisions D9, D19;
logs 14, 24). That no instruction stops at a register that nothing has written is the model's choice, against 10_state.md
R35 and item (3) of R214: logs 1, 29. -/
def Obligations.OnlyMemoryAccessesAndMissingInstructionsStop : Prop :=
  ∀ (i : Instr) (s : State),
    (AccessesMemory i = false → NotInHardware i = false → ∃ t, exec i s = .next t) ∧
    (∀ r, exec i s = .fault r → AccessesMemory i = true) ∧
    (∀ r, exec i s = .refused r → AccessesMemory i = true ∨ NotInHardware i = true)

/-- A run under the guard, with MEM_ORG not fixed, that ends in no model outcome is the run under either organisation
(20_memory.md R45, the spec's decision D2; log 4). One thing more can happen under unified: a run whose steps are used up at
a pc outside the program may have come to a data word that is the self-loop, and then counts as halted there. -/
def Obligations.GuardedRunIsARunUnderEitherOrganisation : Prop :=
  ∀ (halt : Halt) (s : State) (budget done : Nat) (org : MemOrg), s.params.memOrg = .unfixed →
    EndsInOutcome (runFrom halt s budget done) = false →
    runFrom halt (withMemOrg s org) budget done = endWithMemOrg (runFrom halt s budget done) org ∨
      org = .unified ∧ ∃ u, runFrom halt s budget done = .exhausted u ∧ u.inProgram u.pc = false ∧
        runFrom halt (withMemOrg s org) budget done = .halted (done + budget) (withMemOrg u org)

/-- `jal x0, 0` jumps to itself and changes no state, so a run with the self-loop convention ends on reaching it
(40_upper_and_jumps.md R102, 70_reset_and_hazards.md R240, the spec's decision D18; log 25). -/
def Obligations.SelfLoopParksTheMachine : Prop :=
  ∀ (s : State) (budget done : Nat), s.fetch = .ok 0x0000006F#32 →
    Sys2Proof.core.run budget s = .next s ∧ runFrom .selfLoop s budget done = .halted done s
end

