-- ==== Sys2Proof/Laws/Decode.lean ====
section
/-! SUPPORT. The encoder's formats as numbers, and what each field of the decoder reads from each format
(30_encoding.md R62 to R73). -/

namespace Sys2Proof

/-! ### The formats as numbers -/

theorem encodeR_toNat (f7 : BitVec 7) (rs2 rs1 : BitVec 5) (f3 : BitVec 3) (rd : BitVec 5) (op : BitVec 7) :
    (Encode.r f7 rs2 rs1 f3 rd op).toNat =
      f7.toNat * 2 ^ 25 + rs2.toNat * 2 ^ 20 + rs1.toNat * 2 ^ 15 + f3.toNat * 2 ^ 12 + rd.toNat * 2 ^ 7 + op.toNat := by
  show (f7 ++ rs2 ++ rs1 ++ f3 ++ rd ++ op).toNat = _
  simp only [toNat_append_add]; omega

theorem encodeI_toNat (imm : BitVec 12) (rs1 : BitVec 5) (f3 : BitVec 3) (rd : BitVec 5) (op : BitVec 7) :
    (Encode.i imm rs1 f3 rd op).toNat =
      imm.toNat * 2 ^ 20 + rs1.toNat * 2 ^ 15 + f3.toNat * 2 ^ 12 + rd.toNat * 2 ^ 7 + op.toNat := by
  show (imm ++ rs1 ++ f3 ++ rd ++ op).toNat = _
  simp only [toNat_append_add]; omega

theorem encodeS_toNat (imm : BitVec 12) (rs2 rs1 : BitVec 5) (f3 : BitVec 3) (op : BitVec 7) :
    (Encode.s imm rs2 rs1 f3 op).toNat =
      (imm.extractLsb' 5 7).toNat * 2 ^ 25 + rs2.toNat * 2 ^ 20 + rs1.toNat * 2 ^ 15 + f3.toNat * 2 ^ 12 +
        (imm.extractLsb' 0 5).toNat * 2 ^ 7 + op.toNat := by
  show (imm.extractLsb' 5 7 ++ rs2 ++ rs1 ++ f3 ++ imm.extractLsb' 0 5 ++ op).toNat = _
  simp only [toNat_append_add]; omega

theorem encodeB_toNat (off : BitVec 11) (rs2 rs1 : BitVec 5) (f3 : BitVec 3) :
    (Encode.b off rs2 rs1 f3).toNat =
      (off.extractLsb' 10 1).toNat * 2 ^ 31 + (off.extractLsb' 3 6).toNat * 2 ^ 25 + rs2.toNat * 2 ^ 20 +
        rs1.toNat * 2 ^ 15 + f3.toNat * 2 ^ 12 + (off.extractLsb' 0 3).toNat * 2 ^ 9 +
        (off.extractLsb' 9 1).toNat * 2 ^ 7 + 0b1100011 := by
  show (off.extractLsb' 10 1 ++ off.extractLsb' 3 6 ++ rs2 ++ rs1 ++ f3 ++ off.extractLsb' 0 3 ++ 0#1 ++
    off.extractLsb' 9 1 ++ 0b1100011#7).toNat = _
  simp only [toNat_append_add, BitVec.toNat_ofNat]; omega

theorem encodeU_toNat (imm : BitVec 20) (rd : BitVec 5) (op : BitVec 7) :
    (Encode.u imm rd op).toNat = imm.toNat * 2 ^ 12 + rd.toNat * 2 ^ 7 + op.toNat := by
  show (imm ++ rd ++ op).toNat = _
  simp only [toNat_append_add]; omega

theorem encodeJ_toNat (off : BitVec 19) (rd : BitVec 5) :
    (Encode.j off rd).toNat =
      (off.extractLsb' 18 1).toNat * 2 ^ 31 + (off.extractLsb' 0 9).toNat * 2 ^ 22 +
        (off.extractLsb' 9 1).toNat * 2 ^ 20 + (off.extractLsb' 10 8).toNat * 2 ^ 12 + rd.toNat * 2 ^ 7 +
        0b1101111 := by
  show (off.extractLsb' 18 1 ++ off.extractLsb' 0 9 ++ 0#1 ++ off.extractLsb' 9 1 ++ off.extractLsb' 10 8 ++ rd ++
    0b1101111#7).toNat = _
  simp only [toNat_append_add, BitVec.toNat_ofNat]; omega

/-! ### The fields of each format -/

@[simp] theorem opcode_encodeR (f7 : BitVec 7) (rs2 rs1 : BitVec 5) (f3 : BitVec 3) (rd : BitVec 5) (op : BitVec 7) :
    Field.opcode (Encode.r f7 rs2 rs1 f3 rd op) = op := by
  apply BitVec.eq_of_toNat_eq
  rw [Field.opcode, toNat_slice, encodeR_toNat]; omega

@[simp] theorem rd_encodeR (f7 : BitVec 7) (rs2 rs1 : BitVec 5) (f3 : BitVec 3) (rd : BitVec 5) (op : BitVec 7) :
    Field.rd (Encode.r f7 rs2 rs1 f3 rd op) = rd := by
  apply BitVec.eq_of_toNat_eq
  rw [Field.rd, toNat_slice, encodeR_toNat]; omega

@[simp] theorem funct3_encodeR (f7 : BitVec 7) (rs2 rs1 : BitVec 5) (f3 : BitVec 3) (rd : BitVec 5) (op : BitVec 7) :
    Field.funct3 (Encode.r f7 rs2 rs1 f3 rd op) = f3 := by
  apply BitVec.eq_of_toNat_eq
  rw [Field.funct3, toNat_slice, encodeR_toNat]; omega

@[simp] theorem rs1_encodeR (f7 : BitVec 7) (rs2 rs1 : BitVec 5) (f3 : BitVec 3) (rd : BitVec 5) (op : BitVec 7) :
    Field.rs1 (Encode.r f7 rs2 rs1 f3 rd op) = rs1 := by
  apply BitVec.eq_of_toNat_eq
  rw [Field.rs1, toNat_slice, encodeR_toNat]; omega

@[simp] theorem rs2_encodeR (f7 : BitVec 7) (rs2 rs1 : BitVec 5) (f3 : BitVec 3) (rd : BitVec 5) (op : BitVec 7) :
    Field.rs2 (Encode.r f7 rs2 rs1 f3 rd op) = rs2 := by
  apply BitVec.eq_of_toNat_eq
  rw [Field.rs2, toNat_slice, encodeR_toNat]; omega

@[simp] theorem funct7_encodeR (f7 : BitVec 7) (rs2 rs1 : BitVec 5) (f3 : BitVec 3) (rd : BitVec 5) (op : BitVec 7) :
    Field.funct7 (Encode.r f7 rs2 rs1 f3 rd op) = f7 := by
  apply BitVec.eq_of_toNat_eq
  rw [Field.funct7, toNat_slice, encodeR_toNat]; omega

@[simp] theorem opcode_encodeI (imm : BitVec 12) (rs1 : BitVec 5) (f3 : BitVec 3) (rd : BitVec 5) (op : BitVec 7) :
    Field.opcode (Encode.i imm rs1 f3 rd op) = op := by
  apply BitVec.eq_of_toNat_eq
  rw [Field.opcode, toNat_slice, encodeI_toNat]; omega

@[simp] theorem rd_encodeI (imm : BitVec 12) (rs1 : BitVec 5) (f3 : BitVec 3) (rd : BitVec 5) (op : BitVec 7) :
    Field.rd (Encode.i imm rs1 f3 rd op) = rd := by
  apply BitVec.eq_of_toNat_eq
  rw [Field.rd, toNat_slice, encodeI_toNat]; omega

@[simp] theorem funct3_encodeI (imm : BitVec 12) (rs1 : BitVec 5) (f3 : BitVec 3) (rd : BitVec 5) (op : BitVec 7) :
    Field.funct3 (Encode.i imm rs1 f3 rd op) = f3 := by
  apply BitVec.eq_of_toNat_eq
  rw [Field.funct3, toNat_slice, encodeI_toNat]; omega

@[simp] theorem rs1_encodeI (imm : BitVec 12) (rs1 : BitVec 5) (f3 : BitVec 3) (rd : BitVec 5) (op : BitVec 7) :
    Field.rs1 (Encode.i imm rs1 f3 rd op) = rs1 := by
  apply BitVec.eq_of_toNat_eq
  rw [Field.rs1, toNat_slice, encodeI_toNat]; omega

@[simp] theorem immI_encodeI (imm : BitVec 12) (rs1 : BitVec 5) (f3 : BitVec 3) (rd : BitVec 5) (op : BitVec 7) :
    Field.immI (Encode.i imm rs1 f3 rd op) = imm := by
  apply BitVec.eq_of_toNat_eq
  rw [Field.immI, toNat_slice, encodeI_toNat]; omega

@[simp] theorem opcode_encodeS (imm : BitVec 12) (rs2 rs1 : BitVec 5) (f3 : BitVec 3) (op : BitVec 7) :
    Field.opcode (Encode.s imm rs2 rs1 f3 op) = op := by
  apply BitVec.eq_of_toNat_eq
  rw [Field.opcode, toNat_slice, encodeS_toNat]; omega

@[simp] theorem funct3_encodeS (imm : BitVec 12) (rs2 rs1 : BitVec 5) (f3 : BitVec 3) (op : BitVec 7) :
    Field.funct3 (Encode.s imm rs2 rs1 f3 op) = f3 := by
  apply BitVec.eq_of_toNat_eq
  rw [Field.funct3, toNat_slice, encodeS_toNat]; omega

@[simp] theorem rs1_encodeS (imm : BitVec 12) (rs2 rs1 : BitVec 5) (f3 : BitVec 3) (op : BitVec 7) :
    Field.rs1 (Encode.s imm rs2 rs1 f3 op) = rs1 := by
  apply BitVec.eq_of_toNat_eq
  rw [Field.rs1, toNat_slice, encodeS_toNat]; omega

@[simp] theorem rs2_encodeS (imm : BitVec 12) (rs2 rs1 : BitVec 5) (f3 : BitVec 3) (op : BitVec 7) :
    Field.rs2 (Encode.s imm rs2 rs1 f3 op) = rs2 := by
  apply BitVec.eq_of_toNat_eq
  rw [Field.rs2, toNat_slice, encodeS_toNat]; omega

@[simp] theorem immS_encodeS (imm : BitVec 12) (rs2 rs1 : BitVec 5) (f3 : BitVec 3) (op : BitVec 7) :
    Field.immS (Encode.s imm rs2 rs1 f3 op) = imm := by
  have h0 : (Encode.s imm rs2 rs1 f3 op).extractLsb' 25 7 = imm.extractLsb' 5 7 := by
    apply BitVec.eq_of_toNat_eq; rw [toNat_slice, encodeS_toNat]; omega
  have h1 : (Encode.s imm rs2 rs1 f3 op).extractLsb' 7 5 = imm.extractLsb' 0 5 := by
    apply BitVec.eq_of_toNat_eq; rw [toNat_slice, encodeS_toNat]; omega
  have hb := imm.isLt
  apply BitVec.eq_of_toNat_eq
  simp only [Field.immS, h0, h1]
  show (imm.extractLsb' 5 7 ++ imm.extractLsb' 0 5).toNat = _
  simp only [toNat_append_add, toNat_slice]; omega

@[simp] theorem opcode_encodeB (off : BitVec 11) (rs2 rs1 : BitVec 5) (f3 : BitVec 3) :
    Field.opcode (Encode.b off rs2 rs1 f3) = 0b1100011#7 := by
  apply BitVec.eq_of_toNat_eq
  rw [Field.opcode, toNat_slice, encodeB_toNat, BitVec.toNat_ofNat]; omega

@[simp] theorem funct3_encodeB (off : BitVec 11) (rs2 rs1 : BitVec 5) (f3 : BitVec 3) :
    Field.funct3 (Encode.b off rs2 rs1 f3) = f3 := by
  apply BitVec.eq_of_toNat_eq
  rw [Field.funct3, toNat_slice, encodeB_toNat]; omega

@[simp] theorem rs1_encodeB (off : BitVec 11) (rs2 rs1 : BitVec 5) (f3 : BitVec 3) :
    Field.rs1 (Encode.b off rs2 rs1 f3) = rs1 := by
  apply BitVec.eq_of_toNat_eq
  rw [Field.rs1, toNat_slice, encodeB_toNat]; omega

@[simp] theorem rs2_encodeB (off : BitVec 11) (rs2 rs1 : BitVec 5) (f3 : BitVec 3) :
    Field.rs2 (Encode.b off rs2 rs1 f3) = rs2 := by
  apply BitVec.eq_of_toNat_eq
  rw [Field.rs2, toNat_slice, encodeB_toNat]; omega

@[simp] theorem offB_encodeB (off : BitVec 11) (rs2 rs1 : BitVec 5) (f3 : BitVec 3) :
    Field.offB (Encode.b off rs2 rs1 f3) = off := by
  have h0 : (Encode.b off rs2 rs1 f3).extractLsb' 31 1 = off.extractLsb' 10 1 := by
    apply BitVec.eq_of_toNat_eq; rw [toNat_slice, encodeB_toNat]; omega
  have h1 : (Encode.b off rs2 rs1 f3).extractLsb' 7 1 = off.extractLsb' 9 1 := by
    apply BitVec.eq_of_toNat_eq; rw [toNat_slice, encodeB_toNat]; omega
  have h2 : (Encode.b off rs2 rs1 f3).extractLsb' 25 6 = off.extractLsb' 3 6 := by
    apply BitVec.eq_of_toNat_eq; rw [toNat_slice, encodeB_toNat]; omega
  have h3 : (Encode.b off rs2 rs1 f3).extractLsb' 9 3 = off.extractLsb' 0 3 := by
    apply BitVec.eq_of_toNat_eq; rw [toNat_slice, encodeB_toNat]; omega
  have hb := off.isLt
  apply BitVec.eq_of_toNat_eq
  simp only [Field.offB, h0, h1, h2, h3]
  show (off.extractLsb' 10 1 ++ off.extractLsb' 9 1 ++ off.extractLsb' 3 6 ++ off.extractLsb' 0 3).toNat = _
  simp only [toNat_append_add, toNat_slice]; omega

@[simp] theorem bit8_encodeB (off : BitVec 11) (rs2 rs1 : BitVec 5) (f3 : BitVec 3) :
    Field.bit8 (Encode.b off rs2 rs1 f3) = 0#1 := by
  apply BitVec.eq_of_toNat_eq
  rw [Field.bit8, toNat_slice, encodeB_toNat, BitVec.toNat_ofNat]; omega

@[simp] theorem opcode_encodeU (imm : BitVec 20) (rd : BitVec 5) (op : BitVec 7) :
    Field.opcode (Encode.u imm rd op) = op := by
  apply BitVec.eq_of_toNat_eq
  rw [Field.opcode, toNat_slice, encodeU_toNat]; omega

@[simp] theorem rd_encodeU (imm : BitVec 20) (rd : BitVec 5) (op : BitVec 7) :
    Field.rd (Encode.u imm rd op) = rd := by
  apply BitVec.eq_of_toNat_eq
  rw [Field.rd, toNat_slice, encodeU_toNat]; omega

@[simp] theorem immU_encodeU (imm : BitVec 20) (rd : BitVec 5) (op : BitVec 7) :
    Field.immU (Encode.u imm rd op) = imm := by
  apply BitVec.eq_of_toNat_eq
  rw [Field.immU, toNat_slice, encodeU_toNat]; omega

@[simp] theorem opcode_encodeJ (off : BitVec 19) (rd : BitVec 5) :
    Field.opcode (Encode.j off rd) = 0b1101111#7 := by
  apply BitVec.eq_of_toNat_eq
  rw [Field.opcode, toNat_slice, encodeJ_toNat, BitVec.toNat_ofNat]; omega

@[simp] theorem rd_encodeJ (off : BitVec 19) (rd : BitVec 5) :
    Field.rd (Encode.j off rd) = rd := by
  apply BitVec.eq_of_toNat_eq
  rw [Field.rd, toNat_slice, encodeJ_toNat]; omega

@[simp] theorem offJ_encodeJ (off : BitVec 19) (rd : BitVec 5) :
    Field.offJ (Encode.j off rd) = off := by
  have h0 : (Encode.j off rd).extractLsb' 31 1 = off.extractLsb' 18 1 := by
    apply BitVec.eq_of_toNat_eq; rw [toNat_slice, encodeJ_toNat]; omega
  have h1 : (Encode.j off rd).extractLsb' 12 8 = off.extractLsb' 10 8 := by
    apply BitVec.eq_of_toNat_eq; rw [toNat_slice, encodeJ_toNat]; omega
  have h2 : (Encode.j off rd).extractLsb' 20 1 = off.extractLsb' 9 1 := by
    apply BitVec.eq_of_toNat_eq; rw [toNat_slice, encodeJ_toNat]; omega
  have h3 : (Encode.j off rd).extractLsb' 22 9 = off.extractLsb' 0 9 := by
    apply BitVec.eq_of_toNat_eq; rw [toNat_slice, encodeJ_toNat]; omega
  have hb := off.isLt
  apply BitVec.eq_of_toNat_eq
  simp only [Field.offJ, h0, h1, h2, h3]
  show (off.extractLsb' 18 1 ++ off.extractLsb' 10 8 ++ off.extractLsb' 9 1 ++ off.extractLsb' 0 9).toNat = _
  simp only [toNat_append_add, toNat_slice]; omega

@[simp] theorem bit21_encodeJ (off : BitVec 19) (rd : BitVec 5) :
    Field.bit21 (Encode.j off rd) = 0#1 := by
  apply BitVec.eq_of_toNat_eq
  rw [Field.bit21, toNat_slice, encodeJ_toNat, BitVec.toNat_ofNat]; omega

@[simp] theorem funct5_encodeFp (f5 rs2 rs1 : BitVec 5) (f3 : BitVec 3) (rd : BitVec 5) :
    Field.funct5 (Encode.fp f5 rs2 rs1 f3 rd) = f5 := by
  apply BitVec.eq_of_toNat_eq
  simp only [Field.funct5, Encode.fp, toNat_slice, encodeR_toNat, toNat_append_add, BitVec.toNat_ofNat]; omega

@[simp] theorem fmt_encodeFp (f5 rs2 rs1 : BitVec 5) (f3 : BitVec 3) (rd : BitVec 5) :
    Field.fmt (Encode.fp f5 rs2 rs1 f3 rd) = 0#2 := by
  apply BitVec.eq_of_toNat_eq
  simp only [Field.fmt, Encode.fp, toNat_slice, encodeR_toNat, toNat_append_add, BitVec.toNat_ofNat]; omega

@[simp] theorem opcode_encodeFp (f5 rs2 rs1 : BitVec 5) (f3 : BitVec 3) (rd : BitVec 5) :
    Field.opcode (Encode.fp f5 rs2 rs1 f3 rd) = 0b1010011#7 := by
  simp [Encode.fp]

@[simp] theorem rd_encodeFp (f5 rs2 rs1 : BitVec 5) (f3 : BitVec 3) (rd : BitVec 5) :
    Field.rd (Encode.fp f5 rs2 rs1 f3 rd) = rd := by
  simp [Encode.fp]

@[simp] theorem funct3_encodeFp (f5 rs2 rs1 : BitVec 5) (f3 : BitVec 3) (rd : BitVec 5) :
    Field.funct3 (Encode.fp f5 rs2 rs1 f3 rd) = f3 := by
  simp [Encode.fp]

@[simp] theorem rs1_encodeFp (f5 rs2 rs1 : BitVec 5) (f3 : BitVec 3) (rd : BitVec 5) :
    Field.rs1 (Encode.fp f5 rs2 rs1 f3 rd) = rs1 := by
  simp [Encode.fp]

@[simp] theorem rs2_encodeFp (f5 rs2 rs1 : BitVec 5) (f3 : BitVec 3) (rd : BitVec 5) :
    Field.rs2 (Encode.fp f5 rs2 rs1 f3 rd) = rs2 := by
  simp [Encode.fp]

/-! ### The masks of the opcode table (R78) as fields -/

theorem and_mask_0000007F (w : Word) : w &&& 0x0000007F#32 = 0#25 ++ Field.opcode w := by
  apply BitVec.eq_of_getLsbD_eq
  intro i hi
  show _ = (0#25 ++ Field.opcode w).getLsbD i
  simp only [BitVec.getLsbD_and, BitVec.getLsbD_append, BitVec.getLsbD_extractLsb', Field.opcode]
  interval_cases i <;> simp

theorem and_mask_0020007F (w : Word) : w &&& 0x0020007F#32 = 0#10 ++ Field.bit21 w ++ 0#14 ++ Field.opcode w := by
  apply BitVec.eq_of_getLsbD_eq
  intro i hi
  show _ = (0#10 ++ Field.bit21 w ++ 0#14 ++ Field.opcode w).getLsbD i
  simp only [BitVec.getLsbD_and, BitVec.getLsbD_append, BitVec.getLsbD_extractLsb', Field.bit21, Field.opcode]
  interval_cases i <;> simp

theorem and_mask_0000707F (w : Word) : w &&& 0x0000707F#32 = 0#17 ++ Field.funct3 w ++ 0#5 ++ Field.opcode w := by
  apply BitVec.eq_of_getLsbD_eq
  intro i hi
  show _ = (0#17 ++ Field.funct3 w ++ 0#5 ++ Field.opcode w).getLsbD i
  simp only [BitVec.getLsbD_and, BitVec.getLsbD_append, BitVec.getLsbD_extractLsb', Field.funct3, Field.opcode]
  interval_cases i <;> simp

theorem and_mask_0000717F (w : Word) : w &&& 0x0000717F#32 = 0#17 ++ Field.funct3 w ++ 0#3 ++ Field.bit8 w ++ 0#1 ++ Field.opcode w := by
  apply BitVec.eq_of_getLsbD_eq
  intro i hi
  show _ = (0#17 ++ Field.funct3 w ++ 0#3 ++ Field.bit8 w ++ 0#1 ++ Field.opcode w).getLsbD i
  simp only [BitVec.getLsbD_and, BitVec.getLsbD_append, BitVec.getLsbD_extractLsb', Field.bit8, Field.funct3, Field.opcode]
  interval_cases i <;> simp

theorem and_mask_FE00707F (w : Word) : w &&& 0xFE00707F#32 = Field.funct7 w ++ 0#10 ++ Field.funct3 w ++ 0#5 ++ Field.opcode w := by
  apply BitVec.eq_of_getLsbD_eq
  intro i hi
  show _ = (Field.funct7 w ++ 0#10 ++ Field.funct3 w ++ 0#5 ++ Field.opcode w).getLsbD i
  simp only [BitVec.getLsbD_and, BitVec.getLsbD_append, BitVec.getLsbD_extractLsb', Field.funct3, Field.funct7, Field.opcode]
  interval_cases i <;> simp

theorem and_mask_FFF0707F (w : Word) : w &&& 0xFFF0707F#32 = Field.funct7 w ++ Field.rs2 w ++ 0#5 ++ Field.funct3 w ++ 0#5 ++ Field.opcode w := by
  apply BitVec.eq_of_getLsbD_eq
  intro i hi
  show _ = (Field.funct7 w ++ Field.rs2 w ++ 0#5 ++ Field.funct3 w ++ 0#5 ++ Field.opcode w).getLsbD i
  simp only [BitVec.getLsbD_and, BitVec.getLsbD_append, BitVec.getLsbD_extractLsb', Field.funct3, Field.funct7, Field.opcode, Field.rs2]
  interval_cases i <;> simp

theorem and_mask_FE0FFFFF (w : Word) : w &&& 0xFE0FFFFF#32 = Field.funct7 w ++ 0#5 ++ Field.rs1 w ++ Field.funct3 w ++ Field.rd w ++ Field.opcode w := by
  apply BitVec.eq_of_getLsbD_eq
  intro i hi
  show _ = (Field.funct7 w ++ 0#5 ++ Field.rs1 w ++ Field.funct3 w ++ Field.rd w ++ Field.opcode w).getLsbD i
  simp only [BitVec.getLsbD_and, BitVec.getLsbD_append, BitVec.getLsbD_extractLsb', Field.funct3, Field.funct7, Field.opcode, Field.rd, Field.rs1]
  interval_cases i <;> simp

theorem and_mask_FFFFF07F (w : Word) : w &&& 0xFFFFF07F#32 = Field.immI w ++ Field.rs1 w ++ Field.funct3 w ++ 0#5 ++ Field.opcode w := by
  apply BitVec.eq_of_getLsbD_eq
  intro i hi
  show _ = (Field.immI w ++ Field.rs1 w ++ Field.funct3 w ++ 0#5 ++ Field.opcode w).getLsbD i
  simp only [BitVec.getLsbD_and, BitVec.getLsbD_append, BitVec.getLsbD_extractLsb', Field.funct3, Field.immI, Field.opcode, Field.rs1]
  interval_cases i <;> simp

/-- funct7 of the FP format is funct5 and fmt (R72). -/
theorem funct7_eq (w : Word) : Field.funct7 w = Field.funct5 w ++ Field.fmt w := by
  have hw := w.isLt
  apply BitVec.eq_of_toNat_eq
  simp only [Field.funct7, Field.funct5, Field.fmt, toNat_append_add, toNat_slice]; omega

end Sys2Proof
end

