-- ==== Sys2Proof/Laws/Exec.lean ====
section
/-! SUPPORT. The meaning each arm of `exec` calls, so that a proof about one instruction does not unfold `exec`. -/

namespace Sys2Proof.Machine

variable (s : State)

@[simp] theorem exec_lui (rd : XReg) (imm : BitVec 20) : exec (.lui rd imm) s = execLui rd imm s := rfl
@[simp] theorem exec_auipc (rd : XReg) (imm : BitVec 20) : exec (.auipc rd imm) s = execAuipc rd imm s := rfl
@[simp] theorem exec_jal (rd : XReg) (off : BitVec 19) : exec (.jal rd off) s = execJal rd off s := rfl
@[simp] theorem exec_jalr (rd rs1 : XReg) (imm : BitVec 12) : exec (.jalr rd rs1 imm) s = execJalr rd rs1 imm s := rfl
@[simp] theorem exec_beq (rs1 rs2 : XReg) (off : BitVec 11) : exec (.beq rs1 rs2 off) s = execBeq rs1 rs2 off s := rfl
@[simp] theorem exec_bne (rs1 rs2 : XReg) (off : BitVec 11) : exec (.bne rs1 rs2 off) s = execBne rs1 rs2 off s := rfl
@[simp] theorem exec_blt (rs1 rs2 : XReg) (off : BitVec 11) : exec (.blt rs1 rs2 off) s = execBlt rs1 rs2 off s := rfl
@[simp] theorem exec_bge (rs1 rs2 : XReg) (off : BitVec 11) : exec (.bge rs1 rs2 off) s = execBge rs1 rs2 off s := rfl
@[simp] theorem exec_bltu (rs1 rs2 : XReg) (off : BitVec 11) :
    exec (.bltu rs1 rs2 off) s = execBltu rs1 rs2 off s := rfl
@[simp] theorem exec_bgeu (rs1 rs2 : XReg) (off : BitVec 11) :
    exec (.bgeu rs1 rs2 off) s = execBgeu rs1 rs2 off s := rfl
@[simp] theorem exec_lb (rd rs1 : XReg) (imm : BitVec 12) : exec (.lb rd rs1 imm) s = execLb rd rs1 imm s := rfl
@[simp] theorem exec_lh (rd rs1 : XReg) (imm : BitVec 12) : exec (.lh rd rs1 imm) s = execLh rd rs1 imm s := rfl
@[simp] theorem exec_lw (rd rs1 : XReg) (imm : BitVec 12) : exec (.lw rd rs1 imm) s = execLw rd rs1 imm s := rfl
@[simp] theorem exec_lbu (rd rs1 : XReg) (imm : BitVec 12) : exec (.lbu rd rs1 imm) s = execLbu rd rs1 imm s := rfl
@[simp] theorem exec_lhu (rd rs1 : XReg) (imm : BitVec 12) : exec (.lhu rd rs1 imm) s = execLhu rd rs1 imm s := rfl
@[simp] theorem exec_sb (rs2 rs1 : XReg) (imm : BitVec 12) : exec (.sb rs2 rs1 imm) s = execSb rs2 rs1 imm s := rfl
@[simp] theorem exec_sh (rs2 rs1 : XReg) (imm : BitVec 12) : exec (.sh rs2 rs1 imm) s = execSh rs2 rs1 imm s := rfl
@[simp] theorem exec_sw (rs2 rs1 : XReg) (imm : BitVec 12) : exec (.sw rs2 rs1 imm) s = execSw rs2 rs1 imm s := rfl
@[simp] theorem exec_addi (rd rs1 : XReg) (imm : BitVec 12) : exec (.addi rd rs1 imm) s = execAddi rd rs1 imm s := rfl
@[simp] theorem exec_slti (rd rs1 : XReg) (imm : BitVec 12) : exec (.slti rd rs1 imm) s = execSlti rd rs1 imm s := rfl
@[simp] theorem exec_sltiu (rd rs1 : XReg) (imm : BitVec 12) :
    exec (.sltiu rd rs1 imm) s = execSltiu rd rs1 imm s := rfl
@[simp] theorem exec_xori (rd rs1 : XReg) (imm : BitVec 12) : exec (.xori rd rs1 imm) s = execXori rd rs1 imm s := rfl
@[simp] theorem exec_ori (rd rs1 : XReg) (imm : BitVec 12) : exec (.ori rd rs1 imm) s = execOri rd rs1 imm s := rfl
@[simp] theorem exec_andi (rd rs1 : XReg) (imm : BitVec 12) : exec (.andi rd rs1 imm) s = execAndi rd rs1 imm s := rfl
@[simp] theorem exec_slli (rd rs1 : XReg) (shamt : BitVec 5) :
    exec (.slli rd rs1 shamt) s = execSlli rd rs1 shamt s := rfl
@[simp] theorem exec_srli (rd rs1 : XReg) (shamt : BitVec 5) :
    exec (.srli rd rs1 shamt) s = execSrli rd rs1 shamt s := rfl
@[simp] theorem exec_srai (rd rs1 : XReg) (shamt : BitVec 5) :
    exec (.srai rd rs1 shamt) s = execSrai rd rs1 shamt s := rfl
@[simp] theorem exec_add (rd rs1 rs2 : XReg) : exec (.add rd rs1 rs2) s = execAdd rd rs1 rs2 s := rfl
@[simp] theorem exec_sub (rd rs1 rs2 : XReg) : exec (.sub rd rs1 rs2) s = execSub rd rs1 rs2 s := rfl
@[simp] theorem exec_sll (rd rs1 rs2 : XReg) : exec (.sll rd rs1 rs2) s = execSll rd rs1 rs2 s := rfl
@[simp] theorem exec_slt (rd rs1 rs2 : XReg) : exec (.slt rd rs1 rs2) s = execSlt rd rs1 rs2 s := rfl
@[simp] theorem exec_sltu (rd rs1 rs2 : XReg) : exec (.sltu rd rs1 rs2) s = execSltu rd rs1 rs2 s := rfl
@[simp] theorem exec_xor (rd rs1 rs2 : XReg) : exec (.xor rd rs1 rs2) s = execXor rd rs1 rs2 s := rfl
@[simp] theorem exec_srl (rd rs1 rs2 : XReg) : exec (.srl rd rs1 rs2) s = execSrl rd rs1 rs2 s := rfl
@[simp] theorem exec_sra (rd rs1 rs2 : XReg) : exec (.sra rd rs1 rs2) s = execSra rd rs1 rs2 s := rfl
@[simp] theorem exec_or (rd rs1 rs2 : XReg) : exec (.or rd rs1 rs2) s = execOr rd rs1 rs2 s := rfl
@[simp] theorem exec_and (rd rs1 rs2 : XReg) : exec (.and rd rs1 rs2) s = execAnd rd rs1 rs2 s := rfl
@[simp] theorem exec_flw (rd : FReg) (rs1 : XReg) (imm : BitVec 12) :
    exec (.flw rd rs1 imm) s = execFlw rd rs1 imm s := rfl
@[simp] theorem exec_fsw (rs2 : FReg) (rs1 : XReg) (imm : BitVec 12) :
    exec (.fsw rs2 rs1 imm) s = execFsw rs2 rs1 imm s := rfl
@[simp] theorem exec_fadd (rd rs1 rs2 : FReg) : exec (.fadd rd rs1 rs2) s = execFadd rd rs1 rs2 s := rfl
@[simp] theorem exec_fsub (rd rs1 rs2 : FReg) : exec (.fsub rd rs1 rs2) s = execFsub rd rs1 rs2 s := rfl
@[simp] theorem exec_fmul (rd rs1 rs2 : FReg) : exec (.fmul rd rs1 rs2) s = execFmul rd rs1 rs2 s := rfl
@[simp] theorem exec_fdiv (rd rs1 rs2 : FReg) : exec (.fdiv rd rs1 rs2) s = execFdiv rd rs1 rs2 s := rfl
@[simp] theorem exec_fsqrt (rd rs1 : FReg) : exec (.fsqrt rd rs1) s = execFsqrt rd rs1 s := rfl
@[simp] theorem exec_fmvff (rd rs1 : FReg) : exec (.fmvff rd rs1) s = execFmvff rd rs1 s := rfl
@[simp] theorem exec_fneg (rd rs1 : FReg) : exec (.fneg rd rs1) s = execFneg rd rs1 s := rfl
@[simp] theorem exec_fabs (rd rs1 : FReg) : exec (.fabs rd rs1) s = execFabs rd rs1 s := rfl
@[simp] theorem exec_ftoi (rd : XReg) (rs1 : FReg) : exec (.ftoi rd rs1) s = execFtoi rd rs1 s := rfl
@[simp] theorem exec_floor (rd : XReg) (rs1 : FReg) : exec (.floor rd rs1) s = execFloor rd rs1 s := rfl
@[simp] theorem exec_ftox (rd : XReg) (rs1 : FReg) : exec (.ftox rd rs1) s = execFtox rd rs1 s := rfl
@[simp] theorem exec_fle (rd : XReg) (rs1 rs2 : FReg) : exec (.fle rd rs1 rs2) s = execFle rd rs1 rs2 s := rfl
@[simp] theorem exec_flt (rd : XReg) (rs1 rs2 : FReg) : exec (.flt rd rs1 rs2) s = execFlt rd rs1 rs2 s := rfl
@[simp] theorem exec_feq (rd : XReg) (rs1 rs2 : FReg) : exec (.feq rd rs1 rs2) s = execFeq rd rs1 rs2 s := rfl
@[simp] theorem exec_itof (rd : FReg) (rs1 : XReg) : exec (.itof rd rs1) s = execItof rd rs1 s := rfl
@[simp] theorem exec_xtof (rd : FReg) (rs1 : XReg) : exec (.xtof rd rs1) s = execXtof rd rs1 s := rfl
@[simp] theorem exec_ob (rs2 : XReg) : exec (.ob rs2) s = execOb rs2 s := rfl
@[simp] theorem exec_ib (rd : XReg) : exec (.ib rd) s = execIb rd s := rfl

end Sys2Proof.Machine
end

