-- ==== Sys2Proof/Laws/State.lean ====
section
/-! SUPPORT. One lemma per field of State per update, so that no later proof unfolds a record update. -/

namespace Sys2Proof.Machine

variable (s : State)

@[simp] theorem goto_pc (t : Word) : (s.goto t).pc = t := rfl
@[simp] theorem goto_x (t : Word) : (s.goto t).x = s.x := rfl
@[simp] theorem goto_f (t : Word) : (s.goto t).f = s.f := rfl
@[simp] theorem goto_imem (t : Word) : (s.goto t).imem = s.imem := rfl
@[simp] theorem goto_dmem (t : Word) : (s.goto t).dmem = s.dmem := rfl
@[simp] theorem goto_stored (t : Word) : (s.goto t).stored = s.stored := rfl
@[simp] theorem goto_input (t : Word) : (s.goto t).input = s.input := rfl
@[simp] theorem goto_output (t : Word) : (s.goto t).output = s.output := rfl
@[simp] theorem goto_params (t : Word) : (s.goto t).params = s.params := rfl

@[simp] theorem advance_pc : (s.advance).pc = s.pc + 1#32 := rfl
@[simp] theorem advance_x : (s.advance).x = s.x := rfl
@[simp] theorem advance_f : (s.advance).f = s.f := rfl
@[simp] theorem advance_imem : (s.advance).imem = s.imem := rfl
@[simp] theorem advance_dmem : (s.advance).dmem = s.dmem := rfl
@[simp] theorem advance_stored : (s.advance).stored = s.stored := rfl
@[simp] theorem advance_input : (s.advance).input = s.input := rfl
@[simp] theorem advance_output : (s.advance).output = s.output := rfl
@[simp] theorem advance_params : (s.advance).params = s.params := rfl

@[simp] theorem writeData_pc (a v : Word) : (s.writeData a v).pc = s.pc := rfl
@[simp] theorem writeData_x (a v : Word) : (s.writeData a v).x = s.x := rfl
@[simp] theorem writeData_f (a v : Word) : (s.writeData a v).f = s.f := rfl
@[simp] theorem writeData_imem (a v : Word) : (s.writeData a v).imem = s.imem := rfl
@[simp] theorem writeData_dmem (a v : Word) : (s.writeData a v).dmem = s.dmem.writeWord a v := rfl
@[simp] theorem writeData_stored (a v : Word) : (s.writeData a v).stored = insertAddress a s.stored := rfl
@[simp] theorem writeData_input (a v : Word) : (s.writeData a v).input = s.input := rfl
@[simp] theorem writeData_output (a v : Word) : (s.writeData a v).output = s.output := rfl
@[simp] theorem writeData_params (a v : Word) : (s.writeData a v).params = s.params := rfl

@[simp] theorem out_pc (b : Byte) : (s.out b).pc = s.pc := rfl
@[simp] theorem out_x (b : Byte) : (s.out b).x = s.x := rfl
@[simp] theorem out_f (b : Byte) : (s.out b).f = s.f := rfl
@[simp] theorem out_imem (b : Byte) : (s.out b).imem = s.imem := rfl
@[simp] theorem out_dmem (b : Byte) : (s.out b).dmem = s.dmem := rfl
@[simp] theorem out_stored (b : Byte) : (s.out b).stored = s.stored := rfl
@[simp] theorem out_input (b : Byte) : (s.out b).input = s.input := rfl
@[simp] theorem out_output (b : Byte) : (s.out b).output = s.output ++ [b] := rfl
@[simp] theorem out_params (b : Byte) : (s.out b).params = s.params := rfl

@[simp] theorem setInput_pc (bs : List Byte) : (s.setInput bs).pc = s.pc := rfl
@[simp] theorem setInput_x (bs : List Byte) : (s.setInput bs).x = s.x := rfl
@[simp] theorem setInput_f (bs : List Byte) : (s.setInput bs).f = s.f := rfl
@[simp] theorem setInput_imem (bs : List Byte) : (s.setInput bs).imem = s.imem := rfl
@[simp] theorem setInput_dmem (bs : List Byte) : (s.setInput bs).dmem = s.dmem := rfl
@[simp] theorem setInput_stored (bs : List Byte) : (s.setInput bs).stored = s.stored := rfl
@[simp] theorem setInput_input (bs : List Byte) : (s.setInput bs).input = bs := rfl
@[simp] theorem setInput_output (bs : List Byte) : (s.setInput bs).output = s.output := rfl
@[simp] theorem setInput_params (bs : List Byte) : (s.setInput bs).params = s.params := rfl

@[simp] theorem supply_pc (b : Byte) : (s.supply b).pc = s.pc := rfl
@[simp] theorem supply_x (b : Byte) : (s.supply b).x = s.x := rfl
@[simp] theorem supply_f (b : Byte) : (s.supply b).f = s.f := rfl
@[simp] theorem supply_imem (b : Byte) : (s.supply b).imem = s.imem := rfl
@[simp] theorem supply_dmem (b : Byte) : (s.supply b).dmem = s.dmem := rfl
@[simp] theorem supply_stored (b : Byte) : (s.supply b).stored = s.stored := rfl
@[simp] theorem supply_input (b : Byte) : (s.supply b).input = s.input ++ [b] := rfl
@[simp] theorem supply_output (b : Byte) : (s.supply b).output = s.output := rfl
@[simp] theorem supply_params (b : Byte) : (s.supply b).params = s.params := rfl

@[simp] theorem writeX_pc (r : XReg) (v : Word) : (s.writeX r v).pc = s.pc := by
  unfold State.writeX; split <;> rfl
@[simp] theorem writeX_f (r : XReg) (v : Word) : (s.writeX r v).f = s.f := by
  unfold State.writeX; split <;> rfl
@[simp] theorem writeX_imem (r : XReg) (v : Word) : (s.writeX r v).imem = s.imem := by
  unfold State.writeX; split <;> rfl
@[simp] theorem writeX_dmem (r : XReg) (v : Word) : (s.writeX r v).dmem = s.dmem := by
  unfold State.writeX; split <;> rfl
@[simp] theorem writeX_stored (r : XReg) (v : Word) : (s.writeX r v).stored = s.stored := by
  unfold State.writeX; split <;> rfl
@[simp] theorem writeX_input (r : XReg) (v : Word) : (s.writeX r v).input = s.input := by
  unfold State.writeX; split <;> rfl
@[simp] theorem writeX_output (r : XReg) (v : Word) : (s.writeX r v).output = s.output := by
  unfold State.writeX; split <;> rfl
@[simp] theorem writeX_params (r : XReg) (v : Word) : (s.writeX r v).params = s.params := by
  unfold State.writeX; split <;> rfl

@[simp] theorem writeF_pc (r : FReg) (v : Word) : (s.writeF r v).pc = s.pc := by
  unfold State.writeF; split <;> rfl
@[simp] theorem writeF_x (r : FReg) (v : Word) : (s.writeF r v).x = s.x := by
  unfold State.writeF; split <;> rfl
@[simp] theorem writeF_imem (r : FReg) (v : Word) : (s.writeF r v).imem = s.imem := by
  unfold State.writeF; split <;> rfl
@[simp] theorem writeF_dmem (r : FReg) (v : Word) : (s.writeF r v).dmem = s.dmem := by
  unfold State.writeF; split <;> rfl
@[simp] theorem writeF_stored (r : FReg) (v : Word) : (s.writeF r v).stored = s.stored := by
  unfold State.writeF; split <;> rfl
@[simp] theorem writeF_input (r : FReg) (v : Word) : (s.writeF r v).input = s.input := by
  unfold State.writeF; split <;> rfl
@[simp] theorem writeF_output (r : FReg) (v : Word) : (s.writeF r v).output = s.output := by
  unfold State.writeF; split <;> rfl
@[simp] theorem writeF_params (r : FReg) (v : Word) : (s.writeF r v).params = s.params := by
  unfold State.writeF; split <;> rfl

@[simp] theorem setX_pc (r : XReg) (v : Word) : (s.setX r v).pc = s.pc + 1#32 := by
  simp [State.setX]
@[simp] theorem setX_f (r : XReg) (v : Word) : (s.setX r v).f = s.f := by
  simp [State.setX]
@[simp] theorem setX_imem (r : XReg) (v : Word) : (s.setX r v).imem = s.imem := by
  simp [State.setX]
@[simp] theorem setX_dmem (r : XReg) (v : Word) : (s.setX r v).dmem = s.dmem := by
  simp [State.setX]
@[simp] theorem setX_stored (r : XReg) (v : Word) : (s.setX r v).stored = s.stored := by
  simp [State.setX]
@[simp] theorem setX_input (r : XReg) (v : Word) : (s.setX r v).input = s.input := by
  simp [State.setX]
@[simp] theorem setX_output (r : XReg) (v : Word) : (s.setX r v).output = s.output := by
  simp [State.setX]
@[simp] theorem setX_params (r : XReg) (v : Word) : (s.setX r v).params = s.params := by
  simp [State.setX]

@[simp] theorem setF_pc (r : FReg) (v : Word) : (s.setF r v).pc = s.pc + 1#32 := by
  simp [State.setF]
@[simp] theorem setF_x (r : FReg) (v : Word) : (s.setF r v).x = s.x := by
  simp [State.setF]
@[simp] theorem setF_imem (r : FReg) (v : Word) : (s.setF r v).imem = s.imem := by
  simp [State.setF]
@[simp] theorem setF_dmem (r : FReg) (v : Word) : (s.setF r v).dmem = s.dmem := by
  simp [State.setF]
@[simp] theorem setF_stored (r : FReg) (v : Word) : (s.setF r v).stored = s.stored := by
  simp [State.setF]
@[simp] theorem setF_input (r : FReg) (v : Word) : (s.setF r v).input = s.input := by
  simp [State.setF]
@[simp] theorem setF_output (r : FReg) (v : Word) : (s.setF r v).output = s.output := by
  simp [State.setF]
@[simp] theorem setF_params (r : FReg) (v : Word) : (s.setF r v).params = s.params := by
  simp [State.setF]

end Sys2Proof.Machine
end

