-- ==== Sys2Proof/Laws/Memory.lean ====
section
/-! SUPPORT. The laws of a memory: a read after a write, and that every operation keeps the canonical form. -/

namespace Sys2Proof.Machine.Memory

/-! ### One byte -/

@[simp] theorem readByte_nil (k : Nat) : readByte [] k = none := rfl

/-- A read after a write: the written key gives the byte written, every other key what it gave. -/
theorem readByte_writeByte (m : Memory) (key k : Nat) (v : Byte) :
    readByte (writeByte m key v) k = if k = key then some v else readByte m k := by
  induction m with
  | nil => simp [writeByte, readByte, eq_comm]
  | cons c rest ih =>
    obtain ⟨k0, b⟩ := c
    unfold writeByte
    split
    · simp only [readByte, eq_comm]
    · split
      · subst_vars; simp only [readByte]; by_cases h : k = k0 <;> simp [h, eq_comm]
      · rename_i h1 h2
        simp only [readByte, ih]
        by_cases h3 : k0 = k
        · subst h3; simp [Ne.symm h2]
        · simp [h3]

/-- A write keeps keys above a bound that the new key is above. -/
theorem risesAbove_writeByte (low : Nat) (m : Memory) (key : Nat) (v : Byte) (hlow : low < key)
    (h : risesAbove low m = true) : risesAbove low (writeByte m key v) = true := by
  induction m generalizing low with
  | nil => simp [writeByte, risesAbove, hlow]
  | cons c rest ih =>
    obtain ⟨k0, b⟩ := c
    simp only [risesAbove, Bool.and_eq_true, decide_eq_true_eq] at h
    unfold writeByte
    split
    · simp [risesAbove, *]
    · split
      · subst_vars; simp [risesAbove, h]
      · simp only [risesAbove, Bool.and_eq_true, decide_eq_true_eq]
        exact ⟨h.1, ih k0 (by omega) h.2⟩

/-- A write keeps the keys rising. -/
theorem rises_writeByte (m : Memory) (key : Nat) (v : Byte) (h : rises m = true) :
    rises (writeByte m key v) = true := by
  cases m with
  | nil => rfl
  | cons c rest =>
    obtain ⟨k0, b⟩ := c
    simp only [rises] at h
    unfold writeByte
    split
    · simp [rises, risesAbove, *]
    · split
      · subst_vars; simpa [rises] using h
      · exact risesAbove_writeByte k0 rest key v (by omega) h

/-- A write leaves every entry a former one or the new one. -/
theorem mem_writeByte (m : Memory) (key : Nat) (v : Byte) (c : Host.Cell) (h : c ∈ writeByte m key v) :
    c = (key, v) ∨ c ∈ m := by
  induction m with
  | nil => simpa [writeByte] using h
  | cons c0 rest ih =>
    obtain ⟨k0, b⟩ := c0
    unfold writeByte at h
    split at h
    · simpa using h
    · split at h
      · rcases List.mem_cons.mp h with h | h <;> simp [h]
      · rcases List.mem_cons.mp h with h | h
        · simp [h]
        · rcases ih h with h | h <;> simp [h]

/-- A write in the address space keeps the canonical form. -/
theorem wf_writeByte (m : Memory) (key : Nat) (v : Byte) (hk : key < 2 ^ 34) (h : wf m = true) :
    wf (writeByte m key v) = true := by
  simp only [wf, Bool.and_eq_true, List.all_eq_true, decide_eq_true_eq] at h ⊢
  refine ⟨rises_writeByte m key v h.1, fun c hc => ?_⟩
  rcases mem_writeByte m key v c hc with rfl | hc
  · exact hk
  · exact h.2 c hc

/-! ### One word -/

/-- The four bytes of a word put together again (20_memory.md R57). -/
@[simp] theorem wordOfBytes_split (v : Word) :
    wordOfBytes (v.extractLsb' 0 8) (v.extractLsb' 8 8) (v.extractLsb' 16 8) (v.extractLsb' 24 8) = v := by
  have hv := v.isLt
  apply BitVec.eq_of_toNat_eq
  show (v.extractLsb' 24 8 ++ v.extractLsb' 16 8 ++ v.extractLsb' 8 8 ++ v.extractLsb' 0 8).toNat = v.toNat
  simp only [toNat_append_add, toNat_slice]
  omega

/-- Which bytes a word write changes. -/
theorem readByte_writeWord (m : Memory) (a v : Word) (k : Nat) :
    readByte (writeWord m a v) k =
      if k = key a + 3 then some (v.extractLsb' 24 8)
      else if k = key a + 2 then some (v.extractLsb' 16 8)
      else if k = key a + 1 then some (v.extractLsb' 8 8)
      else if k = key a then some (v.extractLsb' 0 8)
      else readByte m k := by
  simp only [writeWord, readByte_writeByte]

/-- A byte outside the word written reads as before. -/
theorem readByte_writeWord_of_outside (m : Memory) (a v : Word) (k : Nat)
    (h : ¬ (4 * a.toNat ≤ k ∧ k < 4 * a.toNat + 4)) : readByte (writeWord m a v) k = readByte m k := by
  rw [readByte_writeWord, if_neg (by simp only [key]; omega), if_neg (by simp only [key]; omega),
    if_neg (by simp only [key]; omega), if_neg (by simp only [key]; omega)]

/-- A word read after it is written gives the value written. -/
@[simp] theorem readWord_writeWord_self (m : Memory) (a v : Word) : readWord (writeWord m a v) a = some v := by
  simp [readWord, readByte_writeWord]

/-- A word write leaves every other word alone. -/
theorem readWord_writeWord_of_ne (m : Memory) {a b : Word} (v : Word) (h : b ≠ a) :
    readWord (writeWord m a v) b = readWord m b := by
  have hne : b.toNat ≠ a.toNat := fun e => h (BitVec.eq_of_toNat_eq e)
  have out (i : Nat) (hi : i < 4) : readByte (writeWord m a v) (key b + i) = readByte m (key b + i) :=
    readByte_writeWord_of_outside m a v _ (by simp only [key]; omega)
  have h0 := out 0 (by omega)
  simp only [Nat.add_zero] at h0
  simp only [readWord, h0, out 1 (by omega), out 2 (by omega), out 3 (by omega)]

/-- A word write keeps the canonical form. -/
theorem wf_writeWord (m : Memory) (a v : Word) (h : wf m = true) : wf (writeWord m a v) = true := by
  have ha := a.isLt
  unfold writeWord
  refine wf_writeByte _ _ _ (by simp only [key]; omega) (wf_writeByte _ _ _ (by simp only [key]; omega)
    (wf_writeByte _ _ _ (by simp only [key]; omega) (wf_writeByte _ _ _ (by simp only [key]; omega) h)))

/-- The empty memory has the canonical form. -/
@[simp] theorem wf_nil : wf [] = true := rfl

@[simp] theorem readWord_nil (a : Word) : readWord [] a = none := rfl

end Sys2Proof.Machine.Memory
end

