-- ==== Sys2Proof/Laws/Registers.lean ====
section
/-! SUPPORT. What the two register files answer after each update (10_state.md R21, R22, R27). -/

namespace Sys2Proof.Machine

variable (s : State)

/-! ### Integer registers -/

/-- Distinct registers other than `x0` have distinct slots. -/
theorem xSlot_ne {r q : XReg} (hr : r ≠ 0#5) (hq : q ≠ 0#5) (h : r ≠ q) : (xSlot r).val ≠ (xSlot q).val := by
  have hr' : r.toNat ≠ 0 := fun e => hr (BitVec.eq_of_toNat_eq (by simpa using e))
  have hq' : q.toNat ≠ 0 := fun e => hq (BitVec.eq_of_toNat_eq (by simpa using e))
  have h' : r.toNat ≠ q.toNat := fun e => h (BitVec.eq_of_toNat_eq e)
  simp only [xSlot]; omega

@[simp] theorem readX_zero : s.readX 0#5 = 0#32 := by simp [State.readX]

@[simp] theorem writeX_zero (v : Word) : s.writeX 0#5 v = s := by simp [State.writeX]

/-- Read after write (R21). -/
theorem readX_writeX (r q : XReg) (v : Word) :
    (s.writeX r v).readX q = if q = r then (if r = 0#5 then 0#32 else v) else s.readX q := by
  unfold State.readX State.writeX
  by_cases hr : r = 0#5
  · subst hr; by_cases hq : q = 0#5 <;> simp [hq]
  · by_cases hq : q = 0#5
    · subst hq; simp [Ne.symm hr]
    · by_cases hqr : q = r
      · subst hqr; simp [hr]
      · simp [hr, hq, hqr, xSlot_ne hr hq (Ne.symm hqr)]

@[simp] theorem readX_writeF (r : FReg) (v : Word) (q : XReg) : (s.writeF r v).readX q = s.readX q := by
  simp [State.readX]

@[simp] theorem readX_goto (t : Word) (q : XReg) : (s.goto t).readX q = s.readX q := rfl
@[simp] theorem readX_advance (q : XReg) : s.advance.readX q = s.readX q := rfl
@[simp] theorem readX_writeData (a v : Word) (q : XReg) : (s.writeData a v).readX q = s.readX q := rfl
@[simp] theorem readX_out (b : Byte) (q : XReg) : (s.out b).readX q = s.readX q := rfl
@[simp] theorem readX_setInput (bs : List Byte) (q : XReg) : (s.setInput bs).readX q = s.readX q := rfl
@[simp] theorem readX_supply (b : Byte) (q : XReg) : (s.supply b).readX q = s.readX q := rfl

theorem readX_setX (r q : XReg) (v : Word) :
    (s.setX r v).readX q = if q = r then (if r = 0#5 then 0#32 else v) else s.readX q := by
  simp [State.setX, readX_writeX]

@[simp] theorem readX_setF (r : FReg) (v : Word) (q : XReg) : (s.setF r v).readX q = s.readX q := by
  simp [State.setF]

/-! ### Floating-point registers -/

/-- The twelve writable registers are the ones without a constant (R25, R26). -/
theorem fpConstant_none_iff (r : FReg) : fpConstant r = none ↔ WritableF r := by
  unfold WritableF; revert r; decide

/-- Distinct writable registers have distinct slots. -/
theorem fSlot_ne {r q : FReg} (hr : fpConstant r = none) (hq : fpConstant q = none) (h : r ≠ q) :
    (fSlot r).val ≠ (fSlot q).val := by
  have hr' := (fpConstant_none_iff r).mp hr
  have hq' := (fpConstant_none_iff q).mp hq
  have h' : r.toNat ≠ q.toNat := fun e => h (BitVec.eq_of_toNat_eq e)
  have val (p : FReg) (hp : WritableF p) :
      (fSlot p).val = if p.toNat ≤ 10 then p.toNat - 1 else p.toNat - 20 := by
    revert p; unfold WritableF; decide
  rw [val r hr', val q hq']
  unfold WritableF at hr' hq'
  split <;> split <;> omega

/-- A constant register reads as its constant in every state (R27). -/
theorem readF_of_constant {r : FReg} {c : Word} (h : fpConstant r = some c) : s.readF r = c := by
  simp [State.readF, h]

/-- A write to a constant register changes nothing (R27). -/
theorem writeF_of_constant {r : FReg} {c : Word} (h : fpConstant r = some c) (v : Word) : s.writeF r v = s := by
  simp [State.writeF, h]

/-- Read after write (R27). -/
theorem readF_writeF (r q : FReg) (v : Word) :
    (s.writeF r v).readF q = if q = r ∧ fpConstant r = none then v else s.readF q := by
  cases hr : fpConstant r with
  | some c => simp [writeF_of_constant s hr]
  | none =>
    cases hq : fpConstant q with
    | some c =>
      have : q ≠ r := by rintro rfl; simp [hr] at hq
      simp [State.readF, hq, this]
    | none =>
      by_cases h : q = r
      · subst h; simp [State.readF, State.writeF, hr]
      · simp [State.readF, State.writeF, hr, hq, h, fSlot_ne hr hq (Ne.symm h)]

@[simp] theorem readF_writeX (r : XReg) (v : Word) (q : FReg) : (s.writeX r v).readF q = s.readF q := by
  simp [State.readF]

@[simp] theorem readF_goto (t : Word) (q : FReg) : (s.goto t).readF q = s.readF q := rfl
@[simp] theorem readF_advance (q : FReg) : s.advance.readF q = s.readF q := rfl
@[simp] theorem readF_writeData (a v : Word) (q : FReg) : (s.writeData a v).readF q = s.readF q := rfl
@[simp] theorem readF_out (b : Byte) (q : FReg) : (s.out b).readF q = s.readF q := rfl
@[simp] theorem readF_setInput (bs : List Byte) (q : FReg) : (s.setInput bs).readF q = s.readF q := rfl
@[simp] theorem readF_supply (b : Byte) (q : FReg) : (s.supply b).readF q = s.readF q := rfl

@[simp] theorem readF_setX (r : XReg) (v : Word) (q : FReg) : (s.setX r v).readF q = s.readF q := by
  simp [State.setX]

theorem readF_setF (r q : FReg) (v : Word) :
    (s.setF r v).readF q = if q = r ∧ fpConstant r = none then v else s.readF q := by
  simp [State.setF, readF_writeF]

end Sys2Proof.Machine
end

