-- ==== Sys2Proof/Laws/Operands.lean ====
section
/-! SUPPORT. For each shared operation, once, everything it can do: the operand forms, fetch, load, store, step; and the
frames of the two ways an instruction ends (a register written, a data word written). -/

namespace Sys2Proof.Machine

/-! ### Fetch, load, store -/

/-- Where there is an instruction word (20_memory.md R45, R46, R53). -/
theorem instructionAt_some_iff (s : State) (a w : Word) :
    s.instructionAt a = some w ↔
      s.imem.readWord a = some w ∨
        s.imem.readWord a = none ∧ s.params.memOrg = .unified ∧ a ∉ s.stored ∧ s.dmem.readWord a = some w := by
  unfold State.instructionAt
  cases s.imem.readWord a with
  | some v => simp
  | none => cases s.params.memOrg <;> simp

/-- Where there is none. -/
theorem instructionAt_none_iff (s : State) (a : Word) :
    s.instructionAt a = none ↔
      s.imem.readWord a = none ∧ (s.params.memOrg = .unified → a ∈ s.stored ∨ s.dmem.readWord a = none) := by
  unfold State.instructionAt
  cases s.imem.readWord a with
  | some v => simp
  | none => cases s.params.memOrg <;> simp [Classical.or_iff_not_imp_left]

/-- A word of the program is the instruction word at its address. -/
theorem instructionAt_of_imem {s : State} {a w : Word} (h : s.imem.readWord a = some w) : s.instructionAt a = some w :=
  (instructionAt_some_iff s a w).mpr (.inl h)

/-- When a fetch succeeds (20_memory.md R46, R48). -/
theorem fetch_ok_iff (s : State) (w : Word) :
    s.fetch = .ok w ↔ s.pc.toNat < s.params.imemWords ∧ s.instructionAt s.pc = some w := by
  unfold State.fetch
  split
  · rename_i h; simp [Nat.not_lt.mpr h]
  · rename_i h
    have h' : s.pc.toNat < s.params.imemWords := by omega
    cases s.instructionAt s.pc <;> simp [h']

/-- A fetch that fails is BadAddress of pc (R48, R241). -/
theorem fetch_error_iff (s : State) (r : Fault) :
    s.fetch = .error r ↔ r = .badAddress s.pc ∧ (s.params.imemWords ≤ s.pc.toNat ∨ s.instructionAt s.pc = none) := by
  unfold State.fetch
  split
  · rename_i h; simp [h, eq_comm]
  · rename_i h; cases s.instructionAt s.pc <;> simp [h, eq_comm]

/-- What counts as stored after a store. -/
theorem mem_insertAddress (a b : Word) (l : List Word) : b ∈ insertAddress a l ↔ b = a ∨ b ∈ l := by
  induction l with
  | nil => simp [insertAddress]
  | cons c rest ih =>
    unfold insertAddress
    split
    · simp
    · split
      · rename_i h; subst h; simp
      · simp only [List.mem_cons, ih]
        exact or_left_comm

theorem risesStrictly_cons (a : Word) (l : List Word) :
    risesStrictly (a :: l) = true ↔ (∀ b ∈ l, a.toNat < b.toNat) ∧ risesStrictly l = true := by simp [risesStrictly]

/-- A store keeps the stored addresses rising. -/
theorem risesStrictly_insertAddress (a : Word) (l : List Word) (h : risesStrictly l = true) :
    risesStrictly (insertAddress a l) = true := by
  induction l with
  | nil => rfl
  | cons c rest ih =>
    obtain ⟨hc, hrest⟩ := (risesStrictly_cons c rest).mp h
    unfold insertAddress
    split
    · rename_i hac
      refine (risesStrictly_cons _ _).mpr ⟨fun b hb => ?_, h⟩
      rcases List.mem_cons.mp hb with rfl | hb
      · exact hac
      · exact Nat.lt_trans hac (hc b hb)
    · split
      · exact h
      · rename_i hac hne
        have : a.toNat ≠ c.toNat := fun he => hne (BitVec.eq_of_toNat_eq he)
        refine (risesStrictly_cons _ _).mpr ⟨fun b hb => ?_, ih hrest⟩
        rcases (mem_insertAddress a b rest).mp hb with rfl | hb
        · omega
        · exact hc b hb

theorem loadFrom_value_iff (m : Memory) (a v : Word) : loadFrom m a = .value v ↔ m.readWord a = some v := by
  unfold loadFrom; cases m.readWord a <;> simp

theorem loadFrom_unwritten_iff (m : Memory) (a : Word) : loadFrom m a = .unwritten ↔ m.readWord a = none := by
  unfold loadFrom; cases m.readWord a <;> simp

theorem loadFrom_ne_bad (m : Memory) (a : Word) : loadFrom m a ≠ .bad := by
  unfold loadFrom; cases m.readWord a <;> simp

/-- The memory a data load reads where it reads one (R45). -/
def State.loadedMemory (s : State) (a : Word) : Memory :=
  if s.inProgram a = true ∧ s.params.memOrg = .unified then s.imem else s.dmem

/-- Whether a data load reaches a memory: within DMEM_WORDS (R48) and not guarded (R45). -/
def State.loadable (s : State) (a : Word) : Prop :=
  a.toNat < s.params.dmemWords ∧ ¬ (s.inProgram a = true ∧ s.params.memOrg = .unfixed)

/-- A load that reaches a memory answers what it holds. -/
theorem load_of_loadable {s : State} {a : Word} (h : s.loadable a) : s.load a = loadFrom (s.loadedMemory a) a := by
  obtain ⟨hw, hg⟩ := h
  unfold State.load State.loadedMemory
  cases hp : s.inProgram a <;> cases hm : s.params.memOrg <;> simp_all [Nat.not_le.mpr hw]

/-- A load that reaches no memory is BadAddress. -/
theorem load_of_not_loadable {s : State} {a : Word} (h : ¬ s.loadable a) : s.load a = .bad := by
  unfold State.loadable at h
  unfold State.load
  by_cases hw : s.params.dmemWords ≤ a.toNat
  · simp [hw]
  · have : a.toNat < s.params.dmemWords := by omega
    cases hp : s.inProgram a <;> cases hm : s.params.memOrg <;> simp_all

theorem load_value_iff (s : State) (a v : Word) :
    s.load a = .value v ↔ s.loadable a ∧ (s.loadedMemory a).readWord a = some v := by
  by_cases h : s.loadable a
  · simp [load_of_loadable h, loadFrom_value_iff, h]
  · simp [load_of_not_loadable h, h]

theorem load_bad_iff (s : State) (a : Word) : s.load a = .bad ↔ ¬ s.loadable a := by
  by_cases h : s.loadable a
  · simp [load_of_loadable h, loadFrom_ne_bad, h]
  · simp [load_of_not_loadable h, h]

theorem load_unwritten_iff (s : State) (a : Word) :
    s.load a = .unwritten ↔ s.loadable a ∧ (s.loadedMemory a).readWord a = none := by
  by_cases h : s.loadable a
  · simp [load_of_loadable h, loadFrom_unwritten_iff, h]
  · simp [load_of_not_loadable h, h]

/-- When a data store has a meaning (R45, R48, R53). -/
theorem storable_iff (s : State) (a : Word) :
    s.storable a = true ↔ a.toNat < s.params.dmemWords ∧ (s.params.memOrg = .separate ∨ s.inProgram a = false) := by
  unfold State.storable; cases s.params.memOrg <;> simp

/-! ### Operand forms -/

variable {s t : State}

theorem opImm_next {op : Word → Word → Word} {rd rs1 : XReg} {imm : BitVec 12} :
    opImm op rd rs1 imm s = .next t ↔ s.setX rd (op (s.readX rs1) (imm.signExtend 32)) = t := by simp [opImm]

theorem opShamt_next {op : Word → Nat → Word} {rd rs1 : XReg} {shamt : BitVec 5} :
    opShamt op rd rs1 shamt s = .next t ↔ s.setX rd (op (s.readX rs1) shamt.toNat) = t := by simp [opShamt]

theorem opReg_next {op : Word → Word → Word} {rd rs1 rs2 : XReg} :
    opReg op rd rs1 rs2 s = .next t ↔ s.setX rd (op (s.readX rs1) (s.readX rs2)) = t := by simp [opReg]

theorem branchIf_next {cond : Word → Word → Bool} {rs1 rs2 : XReg} {off : BitVec 11} :
    branchIf cond rs1 rs2 off s = .next t ↔
      (if cond (s.readX rs1) (s.readX rs2) then s.goto (s.pc + off.signExtend 32) else s.advance) = t := by
  simp [branchIf]

/-- A branch the hardware lacks answers a next state only in the specification's machine (30_encoding.md R81). -/
theorem specBranchIf_next {m : String} {cond : Word → Word → Bool} {rs1 rs2 : XReg} {off : BitVec 11} :
    specBranchIf m cond rs1 rs2 off s = .next t ↔
      s.params.instrSet = .specification ∧ branchIf cond rs1 rs2 off s = .next t := by
  unfold specBranchIf; cases s.params.instrSet <;> simp

theorem loadInto_next {write : State → Word → State} {rs1 : XReg} {imm : BitVec 12} :
    loadInto write rs1 imm s = .next t ↔ ∃ v, s.load (s.effective rs1 imm) = .value v ∧ write s v = t := by
  unfold loadInto; cases s.load (s.effective rs1 imm) <;> simp

theorem loadInto_fault {write : State → Word → State} {rs1 : XReg} {imm : BitVec 12} {r : Fault} :
    loadInto write rs1 imm s = .fault r ↔
      s.load (s.effective rs1 imm) = .bad ∧ .badAddress (s.effective rs1 imm) = r := by
  unfold loadInto; cases s.load (s.effective rs1 imm) <;> simp

theorem loadInto_refused {write : State → Word → State} {rs1 : XReg} {imm : BitVec 12} {r : Refusal} :
    loadInto write rs1 imm s = .refused r ↔
      s.load (s.effective rs1 imm) = .unwritten ∧ .unwritten (s.effective rs1 imm) = r := by
  unfold loadInto; cases s.load (s.effective rs1 imm) <;> simp

theorem storeFrom_next {value : Word} {rs1 : XReg} {imm : BitVec 12} :
    storeFrom value rs1 imm s = .next t ↔
      s.storable (s.effective rs1 imm) = true ∧ (s.writeData (s.effective rs1 imm) value).advance = t := by
  unfold storeFrom; split <;> simp [*]

theorem storeFrom_fault {value : Word} {rs1 : XReg} {imm : BitVec 12} {r : Fault} :
    storeFrom value rs1 imm s = .fault r ↔
      s.storable (s.effective rs1 imm) = false ∧ .badAddress (s.effective rs1 imm) = r := by
  unfold storeFrom; split <;> simp [*]

theorem fpBinary_next {op : Word → Word → Word} {rd rs1 rs2 : FReg} :
    fpBinary op rd rs1 rs2 s = .next t ↔ s.setF rd (op (s.readF rs1) (s.readF rs2)) = t := by simp [fpBinary]

theorem fpUnary_next {op : Word → Word} {rd rs1 : FReg} :
    fpUnary op rd rs1 s = .next t ↔ s.setF rd (op (s.readF rs1)) = t := by simp [fpUnary]

theorem fpCompare_next {op : Word → Word → Bool} {rd : XReg} {rs1 rs2 : FReg} :
    fpCompare op rd rs1 rs2 s = .next t ↔ s.setX rd (flagWord (op (s.readF rs1) (s.readF rs2))) = t := by
  simp [fpCompare]

theorem fpToInt_next {op : Word → Word} {rd : XReg} {rs1 : FReg} :
    fpToInt op rd rs1 s = .next t ↔ s.setX rd (op (s.readF rs1)) = t := by simp [fpToInt]

theorem intToFp_next {op : Word → Word} {rd : FReg} {rs1 : XReg} :
    intToFp op rd rs1 s = .next t ↔ s.setF rd (op (s.readX rs1)) = t := by simp [intToFp]

/-- Everything `ob` can do (47_io.md R201). -/
theorem execOb_next {rs2 : XReg} :
    execOb rs2 s = .next t ↔ (s.out ((s.readX rs2).extractLsb' 0 8)).advance = t := by simp [execOb]

/-- Everything `ib` can do (R202, R203). -/
theorem execIb_next {rd : XReg} :
    execIb rd s = .next t ↔
      s.input = [] ∧ s = t ∨
        ∃ b rest, s.input = b :: rest ∧ (s.setInput rest).setX rd (b.zeroExtend 32) = t := by
  unfold execIb; cases s.input <;> simp

/-! ### Step -/

/-- When a step answers a next state: the fetched word decodes, and its instruction answers it (R46). -/
theorem step_next {s t : State} :
    step s = .next t ↔
      ∃ w i, s.fetch = .ok w ∧ decodeWith s.params.floorEncoding w = .ok i ∧ exec i s = .next t := by
  unfold step
  cases s.fetch with
  | error r => simp
  | ok w =>
    cases hd : decodeWith s.params.floorEncoding w with
    | error e => cases e <;> simp [hd]
    | ok i => simp [hd]

/-! ### Frames -/

/-- An instruction that ends by writing an integer register. -/
theorem givesX_of_setX {i : Instr} {s : State} {rd : XReg} {v : Word} (h : exec i s = .next (s.setX rd v)) :
    GivesX i s rd v (s.pc + 1#32) := by
  refine ⟨_, h, by simp, fun r => readX_setX s rd r v, ?_, ?_, ?_, ?_⟩
  all_goals simp [SameF, SameData, SameProgram, SameIo]

/-- An instruction that writes an integer register and sends pc elsewhere. -/
theorem givesX_of_goto {i : Instr} {s : State} {rd : XReg} {v target : Word}
    (h : exec i s = .next ((s.writeX rd v).goto target)) : GivesX i s rd v target := by
  refine ⟨_, h, by simp, fun r => by simp [readX_writeX], ?_, ?_, ?_, ?_⟩
  all_goals simp [SameF, SameData, SameProgram, SameIo]

/-- An instruction that ends by writing a floating-point register. -/
theorem givesF_of_setF {i : Instr} {s : State} {rd : FReg} {v : Word} (h : exec i s = .next (s.setF rd v)) :
    GivesF i s rd v := by
  refine ⟨_, h, by simp, ⟨?_, ?_, ?_⟩, ?_, ?_, ?_, ?_⟩
  · intro hw; simp [readF_setF, (fpConstant_none_iff rd).mpr hw]
  · intro hw; simp [readF_setF, mt (fpConstant_none_iff rd).mp hw]
  · intro r hr; simp [readF_setF, hr]
  all_goals simp [SameX, SameData, SameProgram, SameIo]

/-- An instruction that does nothing but send pc somewhere. -/
theorem givesPc_of_goto {i : Instr} {s : State} {target : Word} (h : exec i s = .next (s.goto target)) :
    GivesPc i s target := by
  refine ⟨_, h, by simp, ?_, ?_, ?_, ?_, ?_⟩
  all_goals simp [SameX, SameF, SameData, SameProgram, SameIo]

/-- An instruction that ends by storing a data word. -/
theorem givesWord_of_writeData {i : Instr} {s : State} {a v : Word}
    (h : exec i s = .next (s.writeData a v).advance) : GivesWord i s a v := by
  refine ⟨_, h, by simp, ⟨by simp, ?_, fun b => by simpa using mem_insertAddress a b s.stored⟩, ?_, ?_, ?_, ?_⟩
  · intro k hk; simpa using Memory.readByte_writeWord_of_outside s.dmem a v k hk
  all_goals simp [SameX, SameF, SameProgram, SameIo]

end Sys2Proof.Machine
end

