-- ==== Sys2Proof/Laws/PerInstr.lean ====
section
/-! SUPPORT. The per-instruction families of LAWS.json. -/

namespace Sys2Proof.Laws.EncodesItsRow

/-- The word of an instruction has the fixed bits of its row of the opcode table (30_encoding.md R78). -/
def Statement (i : Instr) : Prop :=
  ∀ fe : FloorEncoding, i.wf fe = true → (i.row fe).matches (encodeWith fe i) = true

theorem lui (rd : XReg) (imm : BitVec 20) : Statement (.lui rd imm) := by
  intro _ _
  show (Encode.u imm rd 0b0110111#7 &&& 0x0000007F#32 == 0x00000037#32) = true
  simp [and_mask_0000007F]

theorem auipc (rd : XReg) (imm : BitVec 20) : Statement (.auipc rd imm) := by
  intro _ _
  show (Encode.u imm rd 0b0010111#7 &&& 0x0000007F#32 == 0x00000017#32) = true
  simp [and_mask_0000007F]

theorem jal (rd : XReg) (off : BitVec 19) : Statement (.jal rd off) := by
  intro _ _
  show (Encode.j off rd &&& 0x0020007F#32 == 0x0000006F#32) = true
  simp [and_mask_0020007F]

theorem jalr (rd rs1 : XReg) (imm : BitVec 12) : Statement (.jalr rd rs1 imm) := by
  intro _ _
  show (Encode.i imm rs1 0b000#3 rd 0b1100111#7 &&& 0x0000707F#32 == 0x00000067#32) = true
  simp [and_mask_0000707F]

theorem beq (rs1 rs2 : XReg) (off : BitVec 11) : Statement (.beq rs1 rs2 off) := by
  intro _ _
  show (Encode.b off rs2 rs1 0b000#3 &&& 0x0000717F#32 == 0x00000063#32) = true
  simp [and_mask_0000717F]

theorem bne (rs1 rs2 : XReg) (off : BitVec 11) : Statement (.bne rs1 rs2 off) := by
  intro _ _
  show (Encode.b off rs2 rs1 0b001#3 &&& 0x0000717F#32 == 0x00001063#32) = true
  simp [and_mask_0000717F]

theorem blt (rs1 rs2 : XReg) (off : BitVec 11) : Statement (.blt rs1 rs2 off) := by
  intro _ _
  show (Encode.b off rs2 rs1 0b100#3 &&& 0x0000717F#32 == 0x00004063#32) = true
  simp [and_mask_0000717F]

theorem bge (rs1 rs2 : XReg) (off : BitVec 11) : Statement (.bge rs1 rs2 off) := by
  intro _ _
  show (Encode.b off rs2 rs1 0b101#3 &&& 0x0000717F#32 == 0x00005063#32) = true
  simp [and_mask_0000717F]

theorem bltu (rs1 rs2 : XReg) (off : BitVec 11) : Statement (.bltu rs1 rs2 off) := by
  intro _ _
  show (Encode.b off rs2 rs1 0b110#3 &&& 0x0000717F#32 == 0x00006063#32) = true
  simp [and_mask_0000717F]

theorem bgeu (rs1 rs2 : XReg) (off : BitVec 11) : Statement (.bgeu rs1 rs2 off) := by
  intro _ _
  show (Encode.b off rs2 rs1 0b111#3 &&& 0x0000717F#32 == 0x00007063#32) = true
  simp [and_mask_0000717F]

theorem lb (rd rs1 : XReg) (imm : BitVec 12) : Statement (.lb rd rs1 imm) := by
  intro _ _
  show (Encode.i imm rs1 0b000#3 rd 0b0000011#7 &&& 0x0000707F#32 == 0x00000003#32) = true
  simp [and_mask_0000707F]

theorem lh (rd rs1 : XReg) (imm : BitVec 12) : Statement (.lh rd rs1 imm) := by
  intro _ _
  show (Encode.i imm rs1 0b001#3 rd 0b0000011#7 &&& 0x0000707F#32 == 0x00001003#32) = true
  simp [and_mask_0000707F]

theorem lw (rd rs1 : XReg) (imm : BitVec 12) : Statement (.lw rd rs1 imm) := by
  intro _ _
  show (Encode.i imm rs1 0b010#3 rd 0b0000011#7 &&& 0x0000707F#32 == 0x00002003#32) = true
  simp [and_mask_0000707F]

theorem lbu (rd rs1 : XReg) (imm : BitVec 12) : Statement (.lbu rd rs1 imm) := by
  intro _ _
  show (Encode.i imm rs1 0b100#3 rd 0b0000011#7 &&& 0x0000707F#32 == 0x00004003#32) = true
  simp [and_mask_0000707F]

theorem lhu (rd rs1 : XReg) (imm : BitVec 12) : Statement (.lhu rd rs1 imm) := by
  intro _ _
  show (Encode.i imm rs1 0b101#3 rd 0b0000011#7 &&& 0x0000707F#32 == 0x00005003#32) = true
  simp [and_mask_0000707F]

theorem sb (rs2 rs1 : XReg) (imm : BitVec 12) : Statement (.sb rs2 rs1 imm) := by
  intro _ _
  show (Encode.s imm rs2 rs1 0b000#3 0b0100011#7 &&& 0x0000707F#32 == 0x00000023#32) = true
  simp [and_mask_0000707F]

theorem sh (rs2 rs1 : XReg) (imm : BitVec 12) : Statement (.sh rs2 rs1 imm) := by
  intro _ _
  show (Encode.s imm rs2 rs1 0b001#3 0b0100011#7 &&& 0x0000707F#32 == 0x00001023#32) = true
  simp [and_mask_0000707F]

theorem sw (rs2 rs1 : XReg) (imm : BitVec 12) : Statement (.sw rs2 rs1 imm) := by
  intro _ _
  show (Encode.s imm rs2 rs1 0b010#3 0b0100011#7 &&& 0x0000707F#32 == 0x00002023#32) = true
  simp [and_mask_0000707F]

theorem addi (rd rs1 : XReg) (imm : BitVec 12) : Statement (.addi rd rs1 imm) := by
  intro _ _
  show (Encode.i imm rs1 0b000#3 rd 0b0010011#7 &&& 0x0000707F#32 == 0x00000013#32) = true
  simp [and_mask_0000707F]

theorem slti (rd rs1 : XReg) (imm : BitVec 12) : Statement (.slti rd rs1 imm) := by
  intro _ _
  show (Encode.i imm rs1 0b010#3 rd 0b0010011#7 &&& 0x0000707F#32 == 0x00002013#32) = true
  simp [and_mask_0000707F]

theorem sltiu (rd rs1 : XReg) (imm : BitVec 12) : Statement (.sltiu rd rs1 imm) := by
  intro _ _
  show (Encode.i imm rs1 0b011#3 rd 0b0010011#7 &&& 0x0000707F#32 == 0x00003013#32) = true
  simp [and_mask_0000707F]

theorem xori (rd rs1 : XReg) (imm : BitVec 12) : Statement (.xori rd rs1 imm) := by
  intro _ _
  show (Encode.i imm rs1 0b100#3 rd 0b0010011#7 &&& 0x0000707F#32 == 0x00004013#32) = true
  simp [and_mask_0000707F]

theorem ori (rd rs1 : XReg) (imm : BitVec 12) : Statement (.ori rd rs1 imm) := by
  intro _ _
  show (Encode.i imm rs1 0b110#3 rd 0b0010011#7 &&& 0x0000707F#32 == 0x00006013#32) = true
  simp [and_mask_0000707F]

theorem andi (rd rs1 : XReg) (imm : BitVec 12) : Statement (.andi rd rs1 imm) := by
  intro _ _
  show (Encode.i imm rs1 0b111#3 rd 0b0010011#7 &&& 0x0000707F#32 == 0x00007013#32) = true
  simp [and_mask_0000707F]

theorem slli (rd rs1 : XReg) (shamt : BitVec 5) : Statement (.slli rd rs1 shamt) := by
  intro _ _
  show (Encode.r 0b0000000#7 shamt rs1 0b001#3 rd 0b0010011#7 &&& 0xFE00707F#32 == 0x00001013#32) = true
  simp [and_mask_FE00707F]

theorem srli (rd rs1 : XReg) (shamt : BitVec 5) : Statement (.srli rd rs1 shamt) := by
  intro _ _
  show (Encode.r 0b0000000#7 shamt rs1 0b101#3 rd 0b0010011#7 &&& 0xFE00707F#32 == 0x00005013#32) = true
  simp [and_mask_FE00707F]

theorem srai (rd rs1 : XReg) (shamt : BitVec 5) : Statement (.srai rd rs1 shamt) := by
  intro _ _
  show (Encode.r 0b0100000#7 shamt rs1 0b101#3 rd 0b0010011#7 &&& 0xFE00707F#32 == 0x40005013#32) = true
  simp [and_mask_FE00707F]

theorem add (rd rs1 rs2 : XReg) : Statement (.add rd rs1 rs2) := by
  intro _ _
  show (Encode.r 0b0000000#7 rs2 rs1 0b000#3 rd 0b0110011#7 &&& 0xFE00707F#32 == 0x00000033#32) = true
  simp [and_mask_FE00707F]

theorem sub (rd rs1 rs2 : XReg) : Statement (.sub rd rs1 rs2) := by
  intro _ _
  show (Encode.r 0b0100000#7 rs2 rs1 0b000#3 rd 0b0110011#7 &&& 0xFE00707F#32 == 0x40000033#32) = true
  simp [and_mask_FE00707F]

theorem sll (rd rs1 rs2 : XReg) : Statement (.sll rd rs1 rs2) := by
  intro _ _
  show (Encode.r 0b0000000#7 rs2 rs1 0b001#3 rd 0b0110011#7 &&& 0xFE00707F#32 == 0x00001033#32) = true
  simp [and_mask_FE00707F]

theorem slt (rd rs1 rs2 : XReg) : Statement (.slt rd rs1 rs2) := by
  intro _ _
  show (Encode.r 0b0000000#7 rs2 rs1 0b010#3 rd 0b0110011#7 &&& 0xFE00707F#32 == 0x00002033#32) = true
  simp [and_mask_FE00707F]

theorem sltu (rd rs1 rs2 : XReg) : Statement (.sltu rd rs1 rs2) := by
  intro _ _
  show (Encode.r 0b0000000#7 rs2 rs1 0b011#3 rd 0b0110011#7 &&& 0xFE00707F#32 == 0x00003033#32) = true
  simp [and_mask_FE00707F]

theorem xor (rd rs1 rs2 : XReg) : Statement (.xor rd rs1 rs2) := by
  intro _ _
  show (Encode.r 0b0000000#7 rs2 rs1 0b100#3 rd 0b0110011#7 &&& 0xFE00707F#32 == 0x00004033#32) = true
  simp [and_mask_FE00707F]

theorem srl (rd rs1 rs2 : XReg) : Statement (.srl rd rs1 rs2) := by
  intro _ _
  show (Encode.r 0b0000000#7 rs2 rs1 0b101#3 rd 0b0110011#7 &&& 0xFE00707F#32 == 0x00005033#32) = true
  simp [and_mask_FE00707F]

theorem sra (rd rs1 rs2 : XReg) : Statement (.sra rd rs1 rs2) := by
  intro _ _
  show (Encode.r 0b0100000#7 rs2 rs1 0b101#3 rd 0b0110011#7 &&& 0xFE00707F#32 == 0x40005033#32) = true
  simp [and_mask_FE00707F]

theorem or (rd rs1 rs2 : XReg) : Statement (.or rd rs1 rs2) := by
  intro _ _
  show (Encode.r 0b0000000#7 rs2 rs1 0b110#3 rd 0b0110011#7 &&& 0xFE00707F#32 == 0x00006033#32) = true
  simp [and_mask_FE00707F]

theorem and (rd rs1 rs2 : XReg) : Statement (.and rd rs1 rs2) := by
  intro _ _
  show (Encode.r 0b0000000#7 rs2 rs1 0b111#3 rd 0b0110011#7 &&& 0xFE00707F#32 == 0x00007033#32) = true
  simp [and_mask_FE00707F]

theorem flw (rd : FReg) (rs1 : XReg) (imm : BitVec 12) : Statement (.flw rd rs1 imm) := by
  intro _ _
  show (Encode.i imm rs1 0b010#3 rd 0b0000111#7 &&& 0x0000707F#32 == 0x00002007#32) = true
  simp [and_mask_0000707F]

theorem fsw (rs2 : FReg) (rs1 : XReg) (imm : BitVec 12) : Statement (.fsw rs2 rs1 imm) := by
  intro _ _
  show (Encode.s imm rs2 rs1 0b010#3 0b0100111#7 &&& 0x0000707F#32 == 0x00002027#32) = true
  simp [and_mask_0000707F]

theorem fadd (rd rs1 rs2 : FReg) : Statement (.fadd rd rs1 rs2) := by
  intro _ _
  show (Encode.fp 0b00000#5 rs2 rs1 0b000#3 rd &&& 0xFE00707F#32 == 0x00000053#32) = true
  simp [and_mask_FE00707F, funct7_eq]

theorem fsub (rd rs1 rs2 : FReg) : Statement (.fsub rd rs1 rs2) := by
  intro _ _
  show (Encode.fp 0b00001#5 rs2 rs1 0b000#3 rd &&& 0xFE00707F#32 == 0x08000053#32) = true
  simp [and_mask_FE00707F, funct7_eq]

theorem fmul (rd rs1 rs2 : FReg) : Statement (.fmul rd rs1 rs2) := by
  intro _ _
  show (Encode.fp 0b00010#5 rs2 rs1 0b000#3 rd &&& 0xFE00707F#32 == 0x10000053#32) = true
  simp [and_mask_FE00707F, funct7_eq]

theorem fdiv (rd rs1 rs2 : FReg) : Statement (.fdiv rd rs1 rs2) := by
  intro _ _
  show (Encode.fp 0b00011#5 rs2 rs1 0b000#3 rd &&& 0xFE00707F#32 == 0x18000053#32) = true
  simp [and_mask_FE00707F, funct7_eq]

theorem fsqrt (rd rs1 : FReg) : Statement (.fsqrt rd rs1) := by
  intro _ _
  show (Encode.fp 0b01011#5 0#5 rs1 0b000#3 rd &&& 0xFFF0707F#32 == 0x58000053#32) = true
  simp [and_mask_FFF0707F, funct7_eq]

theorem fmvff (rd rs1 : FReg) : Statement (.fmvff rd rs1) := by
  intro _ _
  show (Encode.fp 0b00100#5 rs1 rs1 0b000#3 rd &&& 0xFE00707F#32 == 0x20000053#32) = true
  simp [and_mask_FE00707F, funct7_eq]

theorem fneg (rd rs1 : FReg) : Statement (.fneg rd rs1) := by
  intro _ _
  show (Encode.fp 0b00100#5 rs1 rs1 0b001#3 rd &&& 0xFE00707F#32 == 0x20001053#32) = true
  simp [and_mask_FE00707F, funct7_eq]

theorem fabs (rd rs1 : FReg) : Statement (.fabs rd rs1) := by
  intro _ _
  show (Encode.fp 0b00100#5 rs1 rs1 0b010#3 rd &&& 0xFE00707F#32 == 0x20002053#32) = true
  simp [and_mask_FE00707F, funct7_eq]

theorem ftoi (rd : XReg) (rs1 : FReg) : Statement (.ftoi rd rs1) := by
  intro _ _
  show (Encode.fp 0b11000#5 0#5 rs1 0b000#3 rd &&& 0xFFF0707F#32 == 0xC0000053#32) = true
  simp [and_mask_FFF0707F, funct7_eq]

/-- The operands of `floor` lie in the bits its row leaves free. -/
theorem floor_operands (rd rs1 : BitVec 5) :
    Encode.r 0#7 0#5 rs1 0#3 rd 0#7 &&& floorOperandBits = Encode.r 0#7 0#5 rs1 0#3 rd 0#7 := by
  have h : Encode.r 0#7 0#5 rs1 0#3 rd 0#7 = 0#12 ++ rs1 ++ 0#3 ++ rd ++ 0#7 := by
    apply BitVec.eq_of_toNat_eq
    show _ = (0#12 ++ rs1 ++ 0#3 ++ rd ++ 0#7).toNat
    rw [encodeR_toNat]; simp only [toNat_append_add, BitVec.toNat_ofNat]; omega
  rw [h]
  apply BitVec.eq_of_getLsbD_eq
  intro i hi
  rw [BitVec.getLsbD_and]
  show ((0#12 ++ rs1 ++ 0#3 ++ rd ++ 0#7).getLsbD i && _) = (0#12 ++ rs1 ++ 0#3 ++ rd ++ 0#7).getLsbD i
  simp only [floorOperandBits, BitVec.getLsbD_append]
  interval_cases i <;> simp

theorem floor (rd : XReg) (rs1 : FReg) : Statement (.floor rd rs1) := by
  intro fe h
  have h' : fe.wf = true := h
  simp only [FloorEncoding.wf, Bool.and_eq_true, beq_iff_eq] at h'
  obtain ⟨⟨hp, hm⟩, -⟩ := h'
  show ((fe.pattern ||| Encode.r 0#7 0#5 rs1 0#3 rd 0#7) &&& fe.mask == fe.pattern) = true
  rw [beq_iff_eq, BitVec.and_comm, BitVec.and_or_distrib_left, BitVec.and_comm fe.mask fe.pattern, hp,
    ← floor_operands rd rs1, BitVec.and_comm _ floorOperandBits, ← BitVec.and_assoc, hm]
  simp

theorem ftox (rd : XReg) (rs1 : FReg) : Statement (.ftox rd rs1) := by
  intro _ _
  show (Encode.fp 0b11100#5 0#5 rs1 0b000#3 rd &&& 0xFFF0707F#32 == 0xE0000053#32) = true
  simp [and_mask_FFF0707F, funct7_eq]

theorem fle (rd : XReg) (rs1 rs2 : FReg) : Statement (.fle rd rs1 rs2) := by
  intro _ _
  show (Encode.fp 0b10100#5 rs2 rs1 0b000#3 rd &&& 0xFE00707F#32 == 0xA0000053#32) = true
  simp [and_mask_FE00707F, funct7_eq]

theorem flt (rd : XReg) (rs1 rs2 : FReg) : Statement (.flt rd rs1 rs2) := by
  intro _ _
  show (Encode.fp 0b10100#5 rs2 rs1 0b001#3 rd &&& 0xFE00707F#32 == 0xA0001053#32) = true
  simp [and_mask_FE00707F, funct7_eq]

theorem feq (rd : XReg) (rs1 rs2 : FReg) : Statement (.feq rd rs1 rs2) := by
  intro _ _
  show (Encode.fp 0b10100#5 rs2 rs1 0b010#3 rd &&& 0xFE00707F#32 == 0xA0002053#32) = true
  simp [and_mask_FE00707F, funct7_eq]

theorem itof (rd : FReg) (rs1 : XReg) : Statement (.itof rd rs1) := by
  intro _ _
  show (Encode.fp 0b11010#5 0#5 rs1 0b000#3 rd &&& 0xFFF0707F#32 == 0xD0000053#32) = true
  simp [and_mask_FFF0707F, funct7_eq]

theorem xtof (rd : FReg) (rs1 : XReg) : Statement (.xtof rd rs1) := by
  intro _ _
  show (Encode.fp 0b11110#5 0#5 rs1 0b000#3 rd &&& 0xFFF0707F#32 == 0xF0000053#32) = true
  simp [and_mask_FFF0707F, funct7_eq]

theorem ob (rs2 : XReg) : Statement (.ob rs2) := by
  intro _ _
  show (Encode.r 0#7 rs2 0#5 0b000#3 0#5 0b0001011#7 &&& 0xFE0FFFFF#32 == 0x0000000B#32) = true
  simp [and_mask_FE0FFFFF]

theorem ib (rd : XReg) : Statement (.ib rd) := by
  intro _ _
  show (Encode.i 0#12 0#5 0b100#3 rd 0b0101011#7 &&& 0xFFFFF07F#32 == 0x0000402B#32) = true
  simp [and_mask_FFFFF07F]

end Sys2Proof.Laws.EncodesItsRow
end

