-- ==== Sys2Proof/Tests/Slice0.lean ====
section
/-! SUPPORT. Tests: decoding of words written out from the spec's encodings, one step of each instruction with the
outcome the spec's vectors give (95_test_vectors.md, part 2), the refusals, and the well-formedness checks. Where a
vector says Unwritten of a register the model reads the reset value instead (log 1), so none of those is here. -/

namespace Sys2Proof.Tests

open Sys2Proof.Machine

/-! ### Small states -/

/-- A state with some integer registers set. -/
def regs (l : List (XReg × Word)) : State := l.foldl (fun s p => s.writeX p.1 p.2) State.reset

/-- A state with some floating-point registers set. -/
def fregs (l : List (FReg × Word)) : State := l.foldl (fun s p => s.writeF p.1 p.2) State.reset

/-- At another pc. -/
def at_ (pc : Word) (s : State) : State := s.goto pc

/-- With a data word. -/
def mem (a v : Word) (s : State) : State := s.writeData a v

/-- With the recommended arithmetic (46_fp_compute.md R190). -/
def ieee (s : State) : State := { s with params := { s.params with numerics := .ieee754 } }

/-- With a FTOI_TIE. -/
def tie (k : FtoiTie) (s : State) : State := { s with params := { s.params with ftoiTie := k } }

/-- The source's specification in place of the hardware (30_encoding.md R81). -/
def specification (s : State) : State := { s with params := { s.params with instrSet := .specification } }

/-- With a MEM_ORG. -/
def org (m : MemOrg) (s : State) : State := { s with params := { s.params with memOrg := m } }

/-- What a function sees of the state after one step that runs a word. -/
def sees {α : Type} (w : Nat) (view : State → α) (s : State) : Option α :=
  match step (s.withFetchWord 32 w) with
  | .next t => some (view t)
  | _ => none

/-- The reason a step that runs a word stops. -/
def stops (w : Nat) (s : State) : Option (Fault ⊕ Refusal) :=
  match step (s.withFetchWord 32 w) with
  | .next _ => none
  | .fault r => some (.inl r)
  | .refused r => some (.inr r)

/-- An integer register and pc. -/
def xPc (r : XReg) (t : State) : Word × Word := (t.readX r, t.pc)

/-- A floating-point register and pc. -/
def fPc (r : FReg) (t : State) : Word × Word := (t.readF r, t.pc)

/-! ### Words written out field by field from 30_encoding.md R62 to R73 -/

theorem test_decode_lui_fields :
    decode (0x12346#20 ++ 0b00101#5 ++ 0b0110111#7) = .ok (.lui 5 0x12346) := by decide
theorem test_decode_jal_fields :
    decode (0b1#1 ++ 0b1111111010#10 ++ 0b1#1 ++ 0b11111111#8 ++ 0b00001#5 ++ 0b1101111#7) = .ok (.jal 1 (-3)) := by decide
theorem test_decode_beq_fields :
    decode (0b0#1 ++ 0b000000#6 ++ 0b00010#5 ++ 0b00001#5 ++ 0b000#3 ++ 0b0110#4 ++ 0b0#1 ++ 0b1100011#7) = .ok (.beq 1 2 3) := by decide
theorem test_decode_lw_fields :
    decode (0b000000000010#12 ++ 0b00110#5 ++ 0b010#3 ++ 0b00101#5 ++ 0b0000011#7) = .ok (.lw 5 6 2) := by decide
theorem test_decode_sw_fields :
    decode (0b0000000#7 ++ 0b00111#5 ++ 0b01000#5 ++ 0b010#3 ++ 0b00011#5 ++ 0b0100011#7) = .ok (.sw 7 8 3) := by decide
theorem test_decode_addi_fields :
    decode (0b111111111111#12 ++ 0b00000#5 ++ 0b000#3 ++ 0b00001#5 ++ 0b0010011#7) = .ok (.addi 1 0 0xFFF) := by decide
theorem test_decode_srai_fields :
    decode (0b0100000#7 ++ 0b00100#5 ++ 0b00001#5 ++ 0b101#3 ++ 0b00010#5 ++ 0b0010011#7) = .ok (.srai 2 1 4) := by decide
theorem test_decode_sub_fields :
    decode (0b0100000#7 ++ 0b00010#5 ++ 0b00001#5 ++ 0b000#3 ++ 0b00011#5 ++ 0b0110011#7) = .ok (.sub 3 1 2) := by decide
theorem test_decode_fsw_fields :
    decode (0b1111111#7 ++ 0b00001#5 ++ 0b00010#5 ++ 0b010#3 ++ 0b11111#5 ++ 0b0100111#7) = .ok (.fsw 1 2 0xFFF) := by decide
theorem test_decode_fsub_fields :
    decode (0b00001#5 ++ 0b00#2 ++ 0b01011#5 ++ 0b00001#5 ++ 0b000#3 ++ 0b00010#5 ++ 0b1010011#7) = .ok (.fsub 2 1 11) := by decide
theorem test_decode_feq_fields :
    decode (0b10100#5 ++ 0b00#2 ++ 0b01100#5 ++ 0b01011#5 ++ 0b010#3 ++ 0b00101#5 ++ 0b1010011#7) = .ok (.feq 5 11 12) := by decide
theorem test_decode_ob_fields :
    decode (0b0000000#7 ++ 0b00001#5 ++ 0b00000#5 ++ 0b000#3 ++ 0b00000#5 ++ 0b0001011#7) = .ok (.ob 1) := by decide
theorem test_decode_ib_fields :
    decode (0b000000000000#12 ++ 0b00000#5 ++ 0b100#3 ++ 0b00001#5 ++ 0b0101011#7) = .ok (.ib 1) := by decide

/-! ### One word of each row, as the spec prints it -/

theorem test_decode_lui : decode 0x123462B7 = .ok (.lui 5 0x12346) := by decide
theorem test_decode_auipc : decode 0x00001317 = .ok (.auipc 6 1) := by decide
theorem test_decode_jal : decode 0x0140006F = .ok (.jal 0 5) := by decide
theorem test_decode_jalr : decode 0xFFC280E7 = .ok (.jalr 1 5 (-4)) := by decide
theorem test_decode_beq : decode 0xFE208CE3 = .ok (.beq 1 2 (-2)) := by decide
theorem test_decode_bne : decode 0xFE009AE3 = .ok (.bne 1 0 (-3)) := by decide
theorem test_decode_blt : decode 0x7E41CEE3 = .ok (.blt 3 4 1023) := by decide
theorem test_decode_bge : decode 0x0020D463 = .ok (.bge 1 2 2) := by decide
theorem test_decode_bltu : decode 0x0020E463 = .ok (.bltu 1 2 2) := by decide
theorem test_decode_bgeu : decode 0x0020F463 = .ok (.bgeu 1 2 2) := by decide
theorem test_decode_lb : decode 0x00030283 = .ok (.lb 5 6 0) := by decide
theorem test_decode_lh : decode 0x00031283 = .ok (.lh 5 6 0) := by decide
theorem test_decode_lw : decode 0xFFF32283 = .ok (.lw 5 6 (-1)) := by decide
theorem test_decode_lbu : decode 0x00034283 = .ok (.lbu 5 6 0) := by decide
theorem test_decode_lhu : decode 0x00035283 = .ok (.lhu 5 6 0) := by decide
theorem test_decode_sb : decode 0x00740023 = .ok (.sb 7 8 0) := by decide
theorem test_decode_sh : decode 0x00741023 = .ok (.sh 7 8 0) := by decide
theorem test_decode_sw : decode 0x80742023 = .ok (.sw 7 8 (-2048)) := by decide
theorem test_decode_addi : decode 0x80028293 = .ok (.addi 5 5 (-2048)) := by decide
theorem test_decode_slti : decode 0xFFF0A113 = .ok (.slti 2 1 (-1)) := by decide
theorem test_decode_sltiu : decode 0xFFF0B113 = .ok (.sltiu 2 1 (-1)) := by decide
theorem test_decode_xori : decode 0x5550C113 = .ok (.xori 2 1 0x555) := by decide
theorem test_decode_ori : decode 0x0F00E113 = .ok (.ori 2 1 0x0F0) := by decide
theorem test_decode_andi : decode 0x7FF0F113 = .ok (.andi 2 1 0x7FF) := by decide
theorem test_decode_slli : decode 0x00409113 = .ok (.slli 2 1 4) := by decide
theorem test_decode_srli : decode 0x0040D113 = .ok (.srli 2 1 4) := by decide
theorem test_decode_srai : decode 0x4040D113 = .ok (.srai 2 1 4) := by decide
theorem test_decode_add : decode 0x002081B3 = .ok (.add 3 1 2) := by decide
theorem test_decode_sub : decode 0x402081B3 = .ok (.sub 3 1 2) := by decide
theorem test_decode_sll : decode 0x002091B3 = .ok (.sll 3 1 2) := by decide
theorem test_decode_slt : decode 0x0020A1B3 = .ok (.slt 3 1 2) := by decide
theorem test_decode_sltu : decode 0x0020B1B3 = .ok (.sltu 3 1 2) := by decide
theorem test_decode_xor : decode 0x0020C1B3 = .ok (.xor 3 1 2) := by decide
theorem test_decode_srl : decode 0x0020D1B3 = .ok (.srl 3 1 2) := by decide
theorem test_decode_sra : decode 0x4020D1B3 = .ok (.sra 3 1 2) := by decide
theorem test_decode_or : decode 0x0020E1B3 = .ok (.or 3 1 2) := by decide
theorem test_decode_and : decode 0x0020F1B3 = .ok (.and 3 1 2) := by decide
theorem test_decode_flw : decode 0x00412087 = .ok (.flw 1 2 4) := by decide
theorem test_decode_fsw : decode 0xFE112FA7 = .ok (.fsw 1 2 (-1)) := by decide
theorem test_decode_fadd : decode 0x00C580D3 = .ok (.fadd 1 11 12) := by decide
theorem test_decode_fsub : decode 0x08B08153 = .ok (.fsub 2 1 11) := by decide
theorem test_decode_fmul : decode 0x10D601D3 = .ok (.fmul 3 12 13) := by decide
theorem test_decode_fdiv : decode 0x18D58253 = .ok (.fdiv 4 11 13) := by decide
theorem test_decode_fsqrt : decode 0x580682D3 = .ok (.fsqrt 5 13) := by decide
theorem test_decode_fmvff : decode 0x21CE0353 = .ok (.fmvff 6 28) := by decide
theorem test_decode_fneg : decode 0x20B593D3 = .ok (.fneg 7 11) := by decide
theorem test_decode_fabs : decode 0x2073A453 = .ok (.fabs 8 7) := by decide
theorem test_decode_ftoi : decode 0xC00702D3 = .ok (.ftoi 5 14) := by decide
theorem test_decode_floor : decode 0xC00E22D3 = .ok (.floor 5 28) := by decide
theorem test_decode_ftox : decode 0xE00582D3 = .ok (.ftox 5 11) := by decide
theorem test_decode_fle : decode 0xA0B602D3 = .ok (.fle 5 12 11) := by decide
theorem test_decode_flt : decode 0xA0C592D3 = .ok (.flt 5 11 12) := by decide
theorem test_decode_feq : decode 0xA0B5A2D3 = .ok (.feq 5 11 11) := by decide
theorem test_decode_itof : decode 0xD00280D3 = .ok (.itof 1 5) := by decide
theorem test_decode_xtof : decode 0xF00280D3 = .ok (.xtof 1 5) := by decide
theorem test_decode_ob : decode 0x0010000B = .ok (.ob 1) := by decide
theorem test_decode_ib : decode 0x000040AB = .ok (.ib 1) := by decide

/-! ### Words that are no instruction (T30) -/

theorem test_illegal_words :
    [0x00000000, 0xFFFFFFFF, 0x00000001, 0x0FF0000F, 0x0000000F, 0x0000100F, 0x00000073, 0x00100073, 0x300110F3, 0x02208033, 0x402091B3, 0x02409113, 0x4240D113, 0x40409113, 0x000090E7, 0x00002063, 0x00033283, 0x00036283, 0x00743023, 0x00013087, 0x00113027, 0x00000043, 0x0000202F, 0x28C580D3, 0x21CE3353, 0xA0B5B2D3, 0x0010400B, 0x000000AB].map decode =
      List.replicate 28 (.error .illegal) := by decide
theorem test_noncanonical_words :
    [0x0160006F, 0x00208763, 0x02C580D3, 0x00C5F0D3, 0x581682D3, 0xC01702D3, 0xD01280D3, 0xE00592D3, 0x20BE0353, 0x0010008B, 0x0010800B, 0x001040AB].map decode =
      List.replicate 12 (.error .nonCanonical) := by decide
theorem test_table_word : decodeTableWord 8 0x37 = some (.lui 0 0) ∧ decodeTableWord 32 0x73 = none := by decide
theorem test_step_illegal : stops 0 .reset = some (.inr (.illegal 0)) := by decide
theorem test_step_noncanonical : stops 0x0160006F .reset = some (.inr (.nonCanonical 0x0160006F)) := by decide

/-! ### One step of each instruction (T40 to T47) -/

-- lui x5, 0xFFFFF
theorem test_lui : sees 0xFFFFF2B7 (xPc 5) (.reset) = some (0xFFFFF000, 1) := by decide
-- lui x0, 1
theorem test_lui_2 : sees 0x00001037 (xPc 0) (.reset) = some (0, 1) := by decide
-- auipc x6, 0xFFFFF
theorem test_auipc : sees 0xFFFFF317 (xPc 6) (at_ 8192 (.reset)) = some (0x00001000, 8193) := by decide
-- auipc x6, 0xFFFFF
theorem test_auipc_2 : sees 0xFFFFF317 (xPc 6) (at_ 16 (.reset)) = some (0xFFFFF010, 17) := by decide
-- jal x1, -262144
theorem test_jal : sees 0x800000EF (xPc 1) (at_ 0 (.reset)) = some (0x00000001, 4294705152) := by decide
-- jal x1, 1
theorem test_jal_2 : sees 0x004000EF (xPc 1) (at_ 0xFFFFFFFF (.reset)) = some (0x00000000, 0) := by decide
-- jalr x5, x5, 0
theorem test_jalr : sees 0x000282E7 (xPc 5) (at_ 50 (regs [(5, 0x000000C8)])) = some (0x00000033, 200) := by decide
-- jalr x1, x5, 3
theorem test_jalr_2 : sees 0x003280E7 (xPc 1) (at_ 7 (regs [(5, 0x00001001)])) = some (0x00000008, 4100) := by decide
-- beq x1, x2, 3
theorem test_beq :
    sees 0x00208663 (fun t => t.pc) (at_ 10 (regs [(1, 0x00000007), (2, 0x00000008)])) = some 11 := by decide
-- beq x1, x2, -2
theorem test_beq_2 :
    sees 0xFE208CE3 (fun t => t.pc) (at_ 10 (regs [(1, 0x00000000), (2, 0x00000000)])) = some 8 := by decide
-- blt x3, x4, 5
theorem test_blt :
    sees 0x0041CA63 (fun t => t.pc) (at_ 20 (regs [(3, 0x80000000), (4, 0x7FFFFFFF)])) = some 25 := by decide
-- blt x3, x4, 5
theorem test_blt_2 :
    sees 0x0041CA63 (fun t => t.pc) (at_ 20 (regs [(3, 0x00000001), (4, 0xFFFFFFFF)])) = some 21 := by decide
-- lw x6, 0(x6)
theorem test_lw :
    sees 0x00032303 (xPc 6) (mem 0x100 0x00000101 (regs [(6, 0x00000100)])) = some (0x00000101, 1) := by decide
-- lw x5, -1(x0)
theorem test_lw_2 : sees 0xFFF02283 (xPc 5) (mem 0xFFFFFFFF 0x00000055 (.reset)) = some (0x00000055, 1) := by decide
-- sw x7, -2048(x8)
theorem test_sw :
    sees 0x80742023 (fun t => (t.dmem.readWord 0x800, t.pc)) (regs [(7, 0x00000001), (8, 0x00001000)]) = some (some 0x00000001, 1) := by decide
-- sw x8, 0(x8)
theorem test_sw_2 :
    sees 0x00842023 (fun t => (t.dmem.readWord 0x200, t.pc)) (regs [(8, 0x00000200)]) = some (some 0x00000200, 1) := by decide
-- addi x1, x1, 1
theorem test_addi : sees 0x00108093 (xPc 1) (regs [(1, 0x7FFFFFFF)]) = some (0x80000000, 1) := by decide
-- addi x0, x1, 5
theorem test_addi_2 : sees 0x00508013 (xPc 0) (regs [(1, 0x00000001)]) = some (0, 1) := by decide
-- slti x2, x1, 0
theorem test_slti : sees 0x0000A113 (xPc 2) (regs [(1, 0x80000000)]) = some (0x00000001, 1) := by decide
-- slti x2, x1, -1
theorem test_slti_2 : sees 0xFFF0A113 (xPc 2) (regs [(1, 0xFFFFFFFF)]) = some (0x00000000, 1) := by decide
-- sltiu x2, x1, -1
theorem test_sltiu : sees 0xFFF0B113 (xPc 2) (regs [(1, 0xFFFFFFFE)]) = some (0x00000001, 1) := by decide
-- sltiu x2, x1, -2048
theorem test_sltiu_2 : sees 0x8000B113 (xPc 2) (regs [(1, 0x80000000)]) = some (0x00000001, 1) := by decide
-- xori x2, x1, -1
theorem test_xori : sees 0xFFF0C113 (xPc 2) (regs [(1, 0x0000FF00)]) = some (0xFFFF00FF, 1) := by decide
-- ori x2, x1, -2048
theorem test_ori : sees 0x8000E113 (xPc 2) (regs [(1, 0x00000001)]) = some (0xFFFFF801, 1) := by decide
-- andi x2, x1, -16
theorem test_andi : sees 0xFF00F113 (xPc 2) (regs [(1, 0x12345678)]) = some (0x12345670, 1) := by decide
-- slli x2, x1, 31
theorem test_slli : sees 0x01F09113 (xPc 2) (regs [(1, 0x80000001)]) = some (0x80000000, 1) := by decide
-- srli x2, x1, 4
theorem test_srli : sees 0x0040D113 (xPc 2) (regs [(1, 0x80000001)]) = some (0x08000000, 1) := by decide
-- srai x2, x1, 4
theorem test_srai : sees 0x4040D113 (xPc 2) (regs [(1, 0x80000001)]) = some (0xF8000000, 1) := by decide
-- srai x2, x1, 31
theorem test_srai_2 : sees 0x41F0D113 (xPc 2) (regs [(1, 0x7FFFFFFF)]) = some (0x00000000, 1) := by decide
-- add x3, x1, x2
theorem test_add :
    sees 0x002081B3 (xPc 3) (regs [(1, 0xFFFFFFFF), (2, 0x00000001)]) = some (0x00000000, 1) := by decide
-- add x1, x1, x1
theorem test_add_2 : sees 0x001080B3 (xPc 1) (regs [(1, 0x40000001)]) = some (0x80000002, 1) := by decide
-- sub x3, x1, x2
theorem test_sub :
    sees 0x402081B3 (xPc 3) (regs [(1, 0x00000005), (2, 0x00000007)]) = some (0xFFFFFFFE, 1) := by decide
-- sub x3, x0, x2
theorem test_sub_2 : sees 0x402001B3 (xPc 3) (regs [(2, 0x80000000)]) = some (0x80000000, 1) := by decide
-- sll x3, x1, x2
theorem test_sll :
    sees 0x002091B3 (xPc 3) (regs [(1, 0x00000001), (2, 0x00000023)]) = some (0x00000008, 1) := by decide
-- sll x3, x1, x2
theorem test_sll_2 :
    sees 0x002091B3 (xPc 3) (regs [(1, 0x00000001), (2, 0x00000020)]) = some (0x00000001, 1) := by decide
-- slt x3, x1, x2
theorem test_slt :
    sees 0x0020A1B3 (xPc 3) (regs [(1, 0x80000000), (2, 0x7FFFFFFF)]) = some (0x00000001, 1) := by decide
-- sltu x3, x1, x2
theorem test_sltu :
    sees 0x0020B1B3 (xPc 3) (regs [(1, 0x00000001), (2, 0xFFFFFFFF)]) = some (0x00000001, 1) := by decide
-- xor x3, x1, x2
theorem test_xor :
    sees 0x0020C1B3 (xPc 3) (regs [(1, 0x0F0F0F0F), (2, 0x00FF00FF)]) = some (0x0FF00FF0, 1) := by decide
-- srl x3, x1, x2
theorem test_srl :
    sees 0x0020D1B3 (xPc 3) (regs [(1, 0x80000000), (2, 0x0000001F)]) = some (0x00000001, 1) := by decide
-- srl x3, x1, x2
theorem test_srl_2 :
    sees 0x0020D1B3 (xPc 3) (regs [(1, 0x80000000), (2, 0x00000020)]) = some (0x80000000, 1) := by decide
-- sra x3, x1, x2
theorem test_sra :
    sees 0x4020D1B3 (xPc 3) (regs [(1, 0x80000000), (2, 0x0000001F)]) = some (0xFFFFFFFF, 1) := by decide
-- sra x3, x1, x2
theorem test_sra_2 :
    sees 0x4020D1B3 (xPc 3) (regs [(1, 0x80000000), (2, 0x00000024)]) = some (0xF8000000, 1) := by decide
-- or x3, x1, x2
theorem test_or :
    sees 0x0020E1B3 (xPc 3) (regs [(1, 0x0F0F0F0F), (2, 0x00FF00FF)]) = some (0x0FFF0FFF, 1) := by decide
-- and x3, x1, x2
theorem test_and :
    sees 0x0020F1B3 (xPc 3) (regs [(1, 0x0F0F0F0F), (2, 0x00FF00FF)]) = some (0x000F000F, 1) := by decide
-- and x0, x1, x2
theorem test_and_2 : sees 0x0020F033 (xPc 0) (regs [(1, 0x0000000F), (2, 0x0000000F)]) = some (0, 1) := by decide
-- flw f1, -1(x2)
theorem test_flw :
    sees 0xFFF12087 (fPc 1) (mem 0x2FF 0x7FC00000 (regs [(2, 0x00000300)])) = some (0x7FC00000, 1) := by decide
-- flw f11, 0(x2)
theorem test_flw_2 :
    sees 0x00012587 (fPc 11) (mem 0x300 0x12345678 (regs [(2, 0x00000300)])) = some (0x3F800000, 1) := by decide
-- fsw f1, -1(x2)
theorem test_fsw :
    sees 0xFE112FA7 (fun t => (t.dmem.readWord 0x2FF, t.pc)) (((regs [(2, 0x00000300)]).writeF 1 0xC0490FDB)) = some (some 0xC0490FDB, 1) := by decide
-- fsw f28, 0(x2)
theorem test_fsw_2 :
    sees 0x01C12027 (fun t => (t.dmem.readWord 0x300, t.pc)) (regs [(2, 0x00000300)]) = some (some 0x40490FDB, 1) := by decide
-- fadd f1, f11, f12
theorem test_fadd : sees 0x00C580D3 (fPc 1) (ieee (.reset)) = some (0x40400000, 1) := by decide
-- fadd f11, f12, f12
theorem test_fadd_2 : sees 0x00C605D3 (fPc 11) (ieee (.reset)) = some (0x3F800000, 1) := by decide
-- fsub f2, f11, f12
theorem test_fsub : sees 0x08C58153 (fPc 2) (ieee (.reset)) = some (0xBF800000, 1) := by decide
-- fsub f2, f28, f28
theorem test_fsub_2 : sees 0x09CE0153 (fPc 2) (ieee (.reset)) = some (0x00000000, 1) := by decide
-- fmul f3, f27, f26
theorem test_fmul : sees 0x11AD81D3 (fPc 3) (ieee (.reset)) = some (0x3E000000, 1) := by decide
-- fmul f3, f1, f0
theorem test_fmul_2 :
    sees 0x100081D3 (fPc 3) (ieee ((State.reset.writeF 1 0xBF800000))) = some (0x80000000, 1) := by decide
-- fdiv f4, f11, f13
theorem test_fdiv : sees 0x18D58253 (fPc 4) (ieee (.reset)) = some (0x3E800000, 1) := by decide
-- fdiv f4, f17, f12
theorem test_fdiv_2 : sees 0x18C88253 (fPc 4) (ieee (.reset)) = some (0x42800000, 1) := by decide
-- fsqrt f5, f13
set_option maxRecDepth 4000 in
theorem test_fsqrt : sees 0x580682D3 (fPc 5) (ieee (.reset)) = some (0x40000000, 1) := by decide
-- fsqrt f5, f26
set_option maxRecDepth 4000 in
theorem test_fsqrt_2 : sees 0x580D02D3 (fPc 5) (ieee (.reset)) = some (0x3F000000, 1) := by decide
-- fmv.f.f f6, f1
theorem test_fmvff : sees 0x20108353 (fPc 6) ((State.reset.writeF 1 0x7FC12345)) = some (0x7FC12345, 1) := by decide
-- fneg f7, f1
theorem test_fneg : sees 0x201093D3 (fPc 7) ((State.reset.writeF 1 0x7FC00001)) = some (0xFFC00001, 1) := by decide
-- fneg f7, f0
theorem test_fneg_2 : sees 0x200013D3 (fPc 7) (.reset) = some (0x80000000, 1) := by decide
-- fabs f8, f7
theorem test_fabs : sees 0x2073A453 (fPc 8) ((State.reset.writeF 7 0xFFC00001)) = some (0x7FC00001, 1) := by decide
-- ftox x5, f1
theorem test_ftox : sees 0xE00082D3 (xPc 5) ((State.reset.writeF 1 0xFFFFFFFF)) = some (0xFFFFFFFF, 1) := by decide
-- ftox x0, f11
theorem test_ftox_2 : sees 0xE0058053 (xPc 0) (.reset) = some (0, 1) := by decide
-- xtof f1, x5
theorem test_xtof : sees 0xF00280D3 (fPc 1) (regs [(5, 0x7FC00000)]) = some (0x7FC00000, 1) := by decide
-- xtof f12, x5
theorem test_xtof_2 : sees 0xF0028653 (fPc 12) (regs [(5, 0x00000000)]) = some (0x40000000, 1) := by decide
-- feq x5, f0, f1
theorem test_feq : sees 0xA01022D3 (xPc 5) ((State.reset.writeF 1 0x80000000)) = some (0x00000001, 1) := by decide
-- feq x5, f11, f12
theorem test_feq_2 : sees 0xA0C5A2D3 (xPc 5) (.reset) = some (0x00000000, 1) := by decide
-- flt x5, f1, f2
theorem test_flt :
    sees 0xA02092D3 (xPc 5) (((State.reset.writeF 1 0xC0000000).writeF 2 0xBF800000)) = some (0x00000001, 1) := by decide
-- flt x5, f1, f0
theorem test_flt_2 : sees 0xA00092D3 (xPc 5) ((State.reset.writeF 1 0x80000000)) = some (0x00000000, 1) := by decide
-- fle x5, f12, f11
theorem test_fle : sees 0xA0B602D3 (xPc 5) (.reset) = some (0x00000000, 1) := by decide
-- fle x5, f0, f1
theorem test_fle_2 : sees 0xA01002D3 (xPc 5) ((State.reset.writeF 1 0x80000000)) = some (0x00000001, 1) := by decide
-- itof f1, x5
theorem test_itof : sees 0xD00280D3 (fPc 1) (ieee (regs [(5, 0x80000000)])) = some (0xCF000000, 1) := by decide
-- itof f1, x5
theorem test_itof_2 : sees 0xD00280D3 (fPc 1) (ieee (regs [(5, 0x01000001)])) = some (0x4B800000, 1) := by decide
-- ftoi x5, f1
theorem test_ftoi : sees 0xC00082D3 (xPc 5) ((State.reset.writeF 1 0xC0490FDB)) = some (0xFFFFFFFD, 1) := by decide
-- ftoi x5, f1
theorem test_ftoi_2 : sees 0xC00082D3 (xPc 5) ((State.reset.writeF 1 0x4EFFFFFF)) = some (0x7FFFFF80, 1) := by decide
-- floor x5, f1
theorem test_floor : sees 0xC000A2D3 (xPc 5) ((State.reset.writeF 1 0xBF000000)) = some (0xFFFFFFFF, 1) := by decide
-- floor x5, f1
theorem test_floor_2 : sees 0xC000A2D3 (xPc 5) ((State.reset.writeF 1 0x80000001)) = some (0xFFFFFFFF, 1) := by decide
-- ob x1
theorem test_ob : sees 0x0010000B (fun t => (t.output, t.pc)) (regs [(1, 0x12345641)]) = some ([0x41], 1) := by decide
-- ob x0
theorem test_ob_2 : sees 0x0000000B (fun t => (t.output, t.pc)) (.reset) = some ([0x00], 1) := by decide
-- ib x1
theorem test_ib :
    sees 0x000040AB (fun t => (t.readX 1, t.input)) (State.setInput (.reset) [0xFF, 0x01]) = some (0x000000FF, [0x01]) := by decide
-- ib x0
theorem test_ib_2 :
    sees 0x0000402B (fun t => (t.readX 1, t.input)) (State.setInput (.reset) [0x41]) = some (0, []) := by decide

/-! ### Ties of ftoi (R180 item 3), waiting and stopping -/

theorem test_ftoi_tie_even : sees 0xC00082D3 (xPc 5) (tie .even (fregs [(1, 0x40200000)])) = some (2, 1) := by decide
theorem test_ftoi_tie_toward_zero :
    sees 0xC00082D3 (xPc 5) (tie .towardZero (fregs [(1, 0xBFC00000)])) = some (0xFFFFFFFF, 1) := by decide
theorem test_ftoi_tie_away : sees 0xC00082D3 (xPc 5) (tie .away (fregs [(1, 0x4AFFFFFF)])) = some (0x00800000, 1) := by
  decide
theorem test_ib_waits : sees 0x000040AB (xPc 1) (regs [(1, 7)]) = some (7, 0) := by decide
theorem test_bne_hardware : stops 0xFE009AE3 .reset = some (.inr (.unimplemented "bne")) := by decide
theorem test_bne_specification :
    sees 0xFE009AE3 (fun t => t.pc) (at_ 9 (specification (regs [(1, 1)]))) = some 6 := by decide
theorem test_bge_specification :
    sees 0x0020D463 (fun t => t.pc) (specification (regs [(1, 1), (2, 0xFFFFFFFF)])) = some 2 := by decide
theorem test_bltu_specification :
    sees 0x0020E463 (fun t => t.pc) (specification (regs [(1, 1), (2, 0xFFFFFFFF)])) = some 2 := by decide
theorem test_bgeu_specification :
    sees 0x0020F463 (fun t => t.pc) (specification (regs [(1, 1), (2, 0xFFFFFFFF)])) = some 1 := by decide
theorem test_lb_refused : stops 0x00030283 (specification .reset) = some (.inr (.unimplemented "lb")) := by decide
theorem test_lw_unwritten : stops 0x00032283 (regs [(6, 0x100)]) = some (.inr (.unwritten 0x100)) := by decide
theorem test_lw_guarded : stops 0x00032283 .reset = some (.inl (.badAddress 0)) := by decide
theorem test_lw_unified : sees 0x00032283 (xPc 5) (org .unified .reset) = some (0x00032283, 1) := by decide
theorem test_lw_separate : sees 0x00032283 (xPc 5) (org .separate (mem 0 9 .reset)) = some (9, 1) := by decide
theorem test_sw_guarded : stops 0x00042023 (org .unified .reset) = some (.inl (.badAddress 0)) := by decide
theorem test_fetch_outside : step (at_ 5 .reset) matches .fault (.badAddress _) := by decide

/-- The word `addi x1, x0, 5` placed as data at word address 9, pc there. -/
def dataWord (m : MemOrg) : State :=
  at_ 9 (State.launch ⟨[0x6F], [(9, 0x00500093)], [], 0, { defaultParams with memOrg := m }⟩)

/-- The address of the fault that the next step ends in. -/
def faultAt (s : State) : Option Word :=
  match step s with
  | .fault (.badAddress a) => some a
  | _ => none

-- 20_memory.md R45: one map under unified, two under separate; the guard where MEM_ORG is not fixed
theorem test_fetch_unified :
    (match step (dataWord .unified) with
      | .next t => some (xPc 1 t)
      | _ => none) = some (5, 10) := by decide
theorem test_fetch_separate : faultAt (dataWord .separate) = some 9 := by decide
theorem test_fetch_unfixed : faultAt (dataWord .unfixed) = some 9 := by decide
-- 20_memory.md R53: a store that a later fetch would see has no defined meaning
theorem test_fetch_stored : faultAt (mem 9 0x00500093 (dataWord .unified)) = some 9 := by decide

/-! ### A run (P4, P1) and well-formedness -/

/-- Program P4 of the spec with two input bytes: it echoes both and waits. -/
def echo : State :=
  State.launch ⟨[0x000042AB, 0x00028863, 0x0202C293, 0x0050000B, 0xFF1FF06F, 0x0000006F], [], [0x61], 0, defaultParams⟩

theorem test_echo_waits :
    (match runFrom .selfLoop echo 8 0 with
      | .waiting n s => some (n, s.pc, s.readX 5, s.output)
      | _ => none) = some (5, 0, 0x41, [0x41]) := by decide

theorem test_params_wf : defaultParams.wf = true := by decide
theorem test_params_imem_too_large : ({ defaultParams with imemWords := 2 ^ 32 + 1 } : Params).wf = false := by decide
theorem test_params_dmem_too_large : ({ defaultParams with dmemWords := 2 ^ 32 + 1 } : Params).wf = false := by decide
theorem test_floor_pattern_outside_mask : (FloorEncoding.mk 0xC0002053 0xFFF0007F).wf = false := by decide
theorem test_floor_mask_covers_operands : (FloorEncoding.mk 0xC0002053 0xFFFFFFFF).wf = false := by decide
theorem test_decode_overlap : decodeWith ⟨0xC0000053, 0xFFF0707F⟩ 0xC00702D3 = .ok (.ftoi 5 14) := by decide
theorem test_floor_overlaps_ftoi : (FloorEncoding.mk 0xC0000053 0xFFF0707F).wf = false := by decide
theorem test_instr_floor_ill_formed : (Instr.floor 1 2).wf ⟨0xC0000053, 0xFFF0707F⟩ = false := by decide
theorem test_imm_b_too_large : ImmFormat.b.admits 1024 = false ∧ ImmFormat.b.admits 1023 = true := by decide
theorem test_imm_j_too_small : ImmFormat.j.admits (-262145) = false ∧ ImmFormat.j.admits (-262144) = true := by decide
theorem test_imm_si_too_large : ImmFormat.si.admits 2048 = false ∧ ImmFormat.si.admits (-2048) = true := by decide
theorem test_imm_u_too_large : ImmFormat.u.admits 1048576 = false ∧ ImmFormat.u.admits 1048575 = true := by decide
theorem test_imm_shamt_too_large : ImmFormat.shamt.admits 32 = false ∧ ImmFormat.shamt.admits 31 = true := by decide
theorem test_memory_not_rising : Memory.wf [(4, 0), (4, 1)] = false ∧ Memory.wf [(4, 0), (5, 1)] = true := by decide
theorem test_stored_not_rising : risesStrictly [2, 1] = false ∧ risesStrictly [1, 1] = false ∧ risesStrictly [1, 2] = true := by
  decide

/-! ### Witnesses of the obligations' hypotheses -/

open Sys2Proof.Claims

/-- A state whose word at pc 0 is the given one. -/
def running (w : Word) : State := State.reset.withFetchWord 32 w.toNat

/-- The value of a normal number with the sign bit clear. -/
theorem val_positive (b : Word) (hs : b.getLsbD 31 = false) (h0 : expField b ≠ 0) :
    val b = ((2 ^ 23 + fracField b : ℕ) : ℚ) * (2 : ℚ) ^ ((expField b : ℤ) - 150) := by
  rw [val, hs, if_neg h0]; simp

/-- The value of a normal number with the sign bit set. -/
theorem val_negative (b : Word) (hs : b.getLsbD 31 = true) (h0 : expField b ≠ 0) :
    val b = -(((2 ^ 23 + fracField b : ℕ) : ℚ) * (2 : ℚ) ^ ((expField b : ℤ) - 150)) := by
  rw [val, hs, if_neg h0]; simp

/-- The value of a zero. -/
theorem val_zeroOf (sign : Bool) : val (zeroOf sign) = 0 := by
  cases sign <;>
    (rw [val, if_pos (show expField (zeroOf _) = 0 by decide), show fracField (zeroOf _) = 0 by decide]; simp)

theorem val_half : val 0x3F000000#32 = 1 / 2 := by
  rw [val_positive _ (by decide) (by decide), show expField 0x3F000000#32 = 126 by decide,
    show fracField 0x3F000000#32 = 0 by decide]; norm_num

theorem val_one : val 0x3F800000#32 = 1 := by
  rw [val_positive _ (by decide) (by decide), show expField 0x3F800000#32 = 127 by decide,
    show fracField 0x3F800000#32 = 0 by decide]; norm_num

theorem val_two : val 0x40000000#32 = 2 := by
  rw [val_positive _ (by decide) (by decide), show expField 0x40000000#32 = 128 by decide,
    show fracField 0x40000000#32 = 0 by decide]; norm_num

theorem val_four : val 0x40800000#32 = 4 := by
  rw [val_positive _ (by decide) (by decide), show expField 0x40800000#32 = 129 by decide,
    show fracField 0x40800000#32 = 0 by decide]; norm_num

theorem val_minus_half : val 0xBF000000#32 = -1 / 2 := by
  rw [val_negative _ (by decide) (by decide), show expField 0xBF000000#32 = 126 by decide,
    show fracField 0xBF000000#32 = 0 by decide]; norm_num

theorem val_least_int : val 0xCF000000#32 = -2147483648 := by
  rw [val_negative _ (by decide) (by decide), show expField 0xCF000000#32 = 158 by decide,
    show fracField 0xCF000000#32 = 0 by decide]; norm_num

theorem hasVal_of (b : Word) (h : (b.extractLsb' 23 8).toNat ≠ 255) : HasVal b := h

theorem witness_DecodeOfEncodeIsIdentity : (Instr.floor 31 31).wf .provisional = true := by decide
theorem witness_EncodeOfDecodeIsIdentity :
    FloorEncoding.provisional.wf = true ∧ FloorEncoding.provisional.mask ||| floorOperandBits = 0xFFFFFFFF#32 ∧
      decodeWith .provisional 0xC00E22D3#32 = .ok (.floor 5 28) := by decide
theorem witness_OpcodeTableDecidesTheInstruction :
    FloorEncoding.provisional.wf = true ∧ decodeWith .provisional 0x20B593D3#32 = .ok (.fneg 7 11) ∧
      ((Instr.fneg 7 11).row .provisional).matches 0x20B593D3#32 = true ∧
      (0x20B593D3#32).extractLsb' 20 5 = (0x20B593D3#32).extractLsb' 15 5 := by decide
theorem witness_OpcodeTableRowsDoNotOverlap : FloorEncoding.provisional.wf = true := by decide
theorem witness_ListedIllegalWordsAreRefused :
    (running 0x00000073#32).fetch = .ok 0x00000073#32 ∧ FloorEncoding.provisional.fits 0x00000073#32 = false ∧
      (0x00000073#32).extractLsb' 0 7 = 0b1110011#7 := by decide
theorem witness_ListedNonCanonicalWordsAreRefused :
    (running 0x0020006F#32).fetch = .ok 0x0020006F#32 ∧ FloorEncoding.provisional.fits 0x0020006F#32 = false ∧
      (0x0020006F#32).extractLsb' 21 1 = 1#1 := by decide
theorem witness_ListedNonCanonicalWords_rest :
    (running 0x0000006F#32).fetch = .ok 0x0000006F#32 ∧ FloorEncoding.provisional.fits 0x0000006F#32 = false ∧
      decode 0x0000006F#32 = .ok (.jal 0 0) := by decide
theorem witness_ImageWordsAreLittleEndian :
    (wordsOfBytes [0x6F, 0, 0, 0, 0x13, 0x01, 0x02, 0x03, 9])[1]? = some 0x03020113#32 := by decide
theorem witness_ConstantRegistersReadTheirPatterns :
    11 ≤ (11#5).toNat ∧ (20#5).toNat ≤ 20 ∧ (26#5).toNat = 26 ∧ (27#5).toNat = 27 := by decide
theorem witness_RegistersReadBack :
    (31#5 ≠ 0#5 ∧ 30#5 ≠ 31#5) ∧ WritableF 1 ∧ WritableF 10 ∧ WritableF 30 ∧ WritableF 31 ∧
      ¬ WritableF 0 ∧ ¬ WritableF 11 ∧ ¬ WritableF 29 := by unfold WritableF; decide
theorem witness_FarJumpReachesItsTarget : 31#5 ≠ 0#5 := by decide
theorem witness_LuiAndAddiBuildAnyConstant : 1#5 ≠ 0#5 := by decide
theorem witness_BeqBranchesOnEqualBits :
    (regs [(1, 7), (2, 7)]).readX 1 = (regs [(1, 7), (2, 7)]).readX 2 ∧
      (regs [(1, 0x80000000)]).readX 1 ≠ (regs [(1, 0x80000000)]).readX 0 := by decide
theorem witness_BltBranchesOnSignedLess :
    ((regs [(1, 0x80000000), (2, 0x7FFFFFFF)]).readX 1).toInt < ((regs [(1, 0x80000000), (2, 0x7FFFFFFF)]).readX 2).toInt ∧
      ((regs [(1, 5)]).readX 1).toInt ≤ ((regs [(1, 5)]).readX 1).toInt := by decide
theorem witness_SpecificationBranchesTransfer :
    (specification .reset).params.instrSet = .specification ∧ State.reset.params.instrSet = .hardware := by decide

/-- A program of one word at 0, data words at 0, 0x104 and 0xFFFFFFFF, DMEM_WORDS as given. -/
def loaded (m : MemOrg) (words : Nat) : State :=
  State.launch ⟨[0x6F], [(0, 7), (0x104, 8), (0xFFFFFFFF, 9)], [], 0, { defaultParams with memOrg := m, dmemWords := words }⟩

theorem witness_LoadsBringTheWord_outside :
    ((loaded .unfixed (2 ^ 32)).readX 0 + (0xFFF#12).signExtend 32).toNat < (loaded .unfixed (2 ^ 32)).params.dmemWords ∧
      (loaded .unfixed (2 ^ 32)).inProgram 0xFFFFFFFF = false ∧
      (loaded .unfixed (2 ^ 32)).dmem.readWord 0xFFFFFFFF = some 9#32 := by decide
theorem witness_LoadsBringTheWord_separate :
    0 < (loaded .separate 1).params.dmemWords ∧ (loaded .separate 1).inProgram 0 = true ∧
      (loaded .separate 1).params.memOrg = .separate ∧ (loaded .separate 1).dmem.readWord 0 = some 7#32 := by decide
theorem witness_LoadsBringTheWord_unified :
    0 < (loaded .unified 1).params.dmemWords ∧ (loaded .unified 1).params.memOrg = .unified ∧
      (loaded .unified 1).imem.readWord 0 = some 0x6F#32 := by decide
theorem witness_LoadsStopWhereThereIsNoWord :
    (loaded .separate 0x104).params.dmemWords ≤ (0x104#32).toNat ∧
      ((loaded .unfixed 1).params.memOrg = .unfixed ∧ (loaded .unfixed 1).inProgram 0 = true) ∧
      ((0x103#32).toNat < (loaded .unfixed 0x104).params.dmemWords ∧ (loaded .unfixed 0x104).inProgram 0x103 = false ∧
        (loaded .unfixed 0x104).dmem.readWord 0x103 = none) := by decide
theorem witness_StoresPutTheWord :
    ((0x104#32).toNat < (loaded .unfixed 0x105).params.dmemWords ∧ (loaded .unfixed 0x105).inProgram 0x104 = false) ∧
      ((0#32).toNat < (loaded .separate 1).params.dmemWords ∧ (loaded .separate 1).params.memOrg = .separate) := by decide
theorem witness_StoresStopOutsideDataMemory :
    (loaded .separate 0x104).params.dmemWords ≤ (0x104#32).toNat ∧
      ((loaded .unified 1).params.memOrg ≠ .separate ∧ (loaded .unified 1).inProgram 0 = true) := by decide
theorem witness_LoadReturnsTheLatestStore :
    exec (.sw 1 2 (-1)) (regs [(1, 5), (2, 0x100)]) =
        .next ((regs [(1, 5), (2, 0x100)]).writeData 0xFF 5).advance ∧
      exec (.fsw 28 2 0) (regs [(2, 0x100)]) = .next ((regs [(2, 0x100)]).writeData 0x100 0x40490FDB).advance ∧
      (regs [(2, 0x100)]).readX 2 + (0#12).signExtend 32 ≠ (regs [(2, 0x100)]).readX 2 + (1#12).signExtend 32 :=
  ⟨rfl, rfl, by decide⟩
theorem witness_FloatArithmeticGivesItsFunction :
    State.reset.params.numerics = .unfixed ∧ (ieee .reset).params.numerics = .ieee754 := by decide
theorem witness_FloatResultsDependOnOperandsAlone :
    exec (.fadd 1 11 12) .reset = .next (State.reset.setF 1 (Config.fadd32 0x3F800000 0x40000000)) ∧
      exec (.fadd 1 11 12) (regs [(3, 9)]) = .next ((regs [(3, 9)]).setF 1 (Config.fadd32 0x3F800000 0x40000000)) ∧
      State.reset.params = (regs [(3, 9)]).params ∧ WritableF 1 := ⟨rfl, rfl, by decide, by unfold WritableF; decide⟩
theorem witness_FtoiGivesTheNearestInteger :
    HasVal 0xCF000000#32 ∧ InInt32 (-2147483648) ∧ |val 0xCF000000#32 - ((-2147483648 : ℤ) : ℚ)| < 1 / 2 :=
  ⟨hasVal_of _ (by decide), by unfold InInt32; decide, by rw [val_least_int]; norm_num⟩
theorem witness_FtoiBreaksTiesAsTheParameterSays :
    State.reset.readF 27 = 0x3F000000#32 ∧ HasVal 0x3F000000#32 ∧ InInt32 0 ∧ InInt32 (0 + 1) ∧
      val 0x3F000000#32 = ((0 : ℤ) : ℚ) + 1 / 2 ∧
      (tie .even .reset).params.ftoiTie = .even ∧ (tie .towardZero .reset).params.ftoiTie = .towardZero ∧
      (tie .away .reset).params.ftoiTie = .away ∧ State.reset.params.ftoiTie = .unfixed :=
  ⟨rfl, hasVal_of _ (by decide), by unfold InInt32; decide, by unfold InInt32; decide, by rw [val_half]; norm_num, rfl, rfl,
    rfl, rfl⟩
theorem witness_FtoiBreaksTies_negative :
    HasVal 0xBF000000#32 ∧ InInt32 (-1) ∧ InInt32 (-1 + 1) ∧ val 0xBF000000#32 = ((-1 : ℤ) : ℚ) + 1 / 2 :=
  ⟨hasVal_of _ (by decide), by unfold InInt32; decide, by unfold InInt32; decide, by rw [val_minus_half]; norm_num⟩
theorem witness_FloorGivesTheGreatestIntegerBelow :
    HasVal 0xBF000000#32 ∧ InInt32 (-1) ∧ ((-1 : ℤ) : ℚ) ≤ val 0xBF000000#32 ∧
      val 0xBF000000#32 < ((-1 : ℤ) : ℚ) + 1 :=
  ⟨hasVal_of _ (by decide), by unfold InInt32; decide, by rw [val_minus_half]; norm_num, by rw [val_minus_half]; norm_num⟩
theorem witness_ItofGivesTheNumberOrANeighbour :
    ((regs [(5, 0x80000000)]).readX 5).toInt = -2147483648 ∧ HasVal 0xCF000000#32 ∧
      val 0xCF000000#32 = ((-2147483648 : ℤ) : ℚ) ∧ (regs [(5, 0)]).readX 5 = 0#32 ∧
      (ieee .reset).params.numerics = .ieee754 :=
  ⟨by decide, hasVal_of _ (by decide), by rw [val_least_int]; norm_num, by decide, rfl⟩
theorem witness_ComparisonsAreByValue :
    ZeroOrNormal 0x80000000#32 ∧ ZeroOrNormal 0x00800000#32 ∧ ZeroOrNormal 0x7F7FFFFF#32 ∧
      ¬ IsNaN 0x7F800000#32 := by unfold ZeroOrNormal IsNaN; decide
theorem witness_RecommendedComparisonsFollowIeee :
    (ieee .reset).params.numerics = .ieee754 ∧ HasVal 0x00000001#32 ∧ HasVal 0x7F7FFFFF#32 ∧ IsNaN 0x7F800001#32 ∧
      (fregs [(1, 0xFF800000)]).readF 1 = infinityOf true ∧ (fregs [(1, 0x7F800000)]).readF 1 = infinityOf false := by
  unfold HasVal IsNaN; decide
theorem witness_RecommendedComparisons_infinities :
    (ieee (fregs [(1, 0xFF800000), (2, 0x7F800000)])).params.numerics = .ieee754 ∧
      (ieee (fregs [(1, 0xFF800000), (2, 0x7F800000)])).readF 1 = infinityOf true ∧
      (ieee (fregs [(1, 0xFF800000), (2, 0x7F800000)])).readF 2 = infinityOf false := by decide
theorem witness_RecommendedArithmeticIsExact_sum :
    HasVal 0x3F800000#32 ∧ HasVal 0x40000000#32 ∧ val 0x40000000#32 ≠ 0 ∧
      val 0x40000000#32 = val 0x3F800000#32 + val 0x3F800000#32 ∧
      val 0x3F800000#32 = val 0x40000000#32 - val 0x3F800000#32 ∧
      val 0x40000000#32 = val 0x3F800000#32 * val 0x40000000#32 :=
  ⟨hasVal_of _ (by decide), hasVal_of _ (by decide), by rw [val_two]; norm_num,
    by rw [val_two, val_one]; norm_num, by rw [val_two, val_one]; norm_num, by rw [val_two, val_one]; norm_num⟩
theorem witness_RecommendedArithmeticIsExact_quotient :
    val 0x40000000#32 ≠ 0 ∧ val 0x3F000000#32 = val 0x3F800000#32 / val 0x40000000#32 ∧ 0 < val 0x40000000#32 ∧
      val 0x40000000#32 * val 0x40000000#32 = val 0x40800000#32 :=
  ⟨by rw [val_two]; norm_num, by rw [val_half, val_one, val_two], by rw [val_two]; norm_num,
    by rw [val_two, val_four]; norm_num⟩
theorem witness_RecommendedArithmeticIsExact_zeros :
    val (zeroOf true) + val (zeroOf true) = 0 ∧ val 0x3F800000#32 - val 0x3F800000#32 = 0 ∧
      val 0x3F800000#32 * val (zeroOf false) = 0 ∧ val (zeroOf true) = 0 ∧ val 0x3F800000#32 ≠ 0 ∧
      HasVal (zeroOf true) ∧ HasVal (zeroOf false) :=
  ⟨by rw [val_zeroOf]; norm_num, by norm_num, by rw [val_zeroOf]; norm_num, val_zeroOf true, by rw [val_one]; norm_num,
    hasVal_of _ (by decide), hasVal_of _ (by decide)⟩
theorem witness_RecommendedArithmeticRoundsToNearest :
    (ieee .reset).params.numerics = .ieee754 ∧ HasVal ((ieee .reset).readF 0) ∧ HasVal ((ieee .reset).readF 29) :=
  ⟨rfl, hasVal_of _ (by decide), hasVal_of _ (by decide)⟩
theorem witness_RecommendedQuotientsAndRootsRoundToNearest :
    (ieee .reset).params.numerics = .ieee754 ∧ (ieee .reset).readF 12 = 0x40000000#32 ∧ HasVal 0x40000000#32 ∧
      val 0x40000000#32 ≠ 0 ∧ 0 ≤ val 0x40000000#32 ∧ (ieee .reset).readF 0 = zeroOf false ∧ 0 ≤ val (zeroOf false) :=
  ⟨rfl, rfl, hasVal_of _ (by decide), by rw [val_two]; norm_num, by rw [val_two]; norm_num, rfl, (val_zeroOf false).ge⟩
theorem witness_RecommendedExceptionalResults :
    HasVal 0xBF000000#32 ∧ val 0xBF000000#32 ≠ 0 ∧ IsZero 0x80000000#32 ∧ IsZero 0x00000000#32 ∧
      val 0xBF000000#32 < 0 :=
  ⟨hasVal_of _ (by decide), by rw [val_minus_half]; norm_num, by unfold IsZero; decide, by unfold IsZero; decide,
    by rw [val_minus_half]; norm_num⟩
theorem witness_RecommendedExceptionalResults_infinities :
    IsInfinite 0x7F800000#32 ∧ IsInfinite 0xFF800000#32 ∧ IsNaN 0x7F800001#32 ∧ HasVal 0x00000001#32 ∧
      ¬ IsZero 0x00000001#32 ∧ ¬ IsNaN 0x00000001#32 ∧ ¬ IsZero 0xFF800000#32 ∧ ¬ IsNaN 0xFF800000#32 ∧
      (fregs [(1, 0x7F800000), (2, 0xFF800000)]).readF 1 = infinityOf false ∧
      (fregs [(1, 0x7F800000), (2, 0xFF800000)]).readF 2 = infinityOf true ∧
      ((0x7F800000#32).getLsbD 31 != (0xFF800000#32).getLsbD 31) = true ∧
      ((0x7F800000#32).getLsbD 31 != (0x7F800000#32).getLsbD 31) = false := by
  unfold IsInfinite IsNaN HasVal IsZero; decide
theorem witness_IbTakesTheNextByte : (State.reset.setInput [0xFF, 0x01]).input = 0xFF#8 :: [0x01#8] := by decide
theorem witness_IbWaitsForInput :
    (running 0x000040AB#32).fetch = .ok 0x000040AB#32 ∧ decodeWith .provisional 0x000040AB#32 = .ok (.ib 1) ∧
      (running 0x000040AB#32).input = [] := by decide
theorem witness_runs : Sys2Proof.core.run 2 (running 0x0000006F#32) = .next (running 0x0000006F#32) := by rfl
theorem witness_StreamsKeepTheirOrder :
    (match Sys2Proof.core.run 4 echo with
      | .next t => some (t.input, t.output)
      | _ => none) = some ([], [0x41#8]) := by decide
/-- Two input bytes, `ib x1` at pc 0 and at pc 1. -/
def reading : State := State.launch ⟨[0x000040AB, 0x000040AB], [], [0x61, 0x62], 0, defaultParams⟩

theorem witness_StreamsKeepTheirOrder_next :
    (match Sys2Proof.core.run 1 reading with
      | .next t => some (nextInstr t, t.input, (step t matches .next _ : Bool), t.readX 1)
      | _ => none) = some (some (.ib 1), [0x62#8], true, 0x61#32) := by decide
theorem witness_StepRunsTheDecodedInstruction :
    0 < (running 0x0000006F#32).params.imemWords ∧ (running 0x0000006F#32).imem.readWord 0 = some 0x0000006F#32 ∧
      decodeWith .provisional 0x0000006F#32 = .ok (.jal 0 0) := by decide
theorem witness_StepRunsTheDecodedInstruction_next :
    (running 0x00500093#32).fetch = .ok 0x00500093#32 ∧ decodeWith .provisional 0x00500093#32 = .ok (.addi 1 0 5) ∧
      exec (.addi 1 0 5) (running 0x00500093#32) = .next ((running 0x00500093#32).setX 1 5) ∧
      TransfersControl (.addi 1 0 5) = false ∧ (running 0x00500093#32).pc.toNat + 1 < 2 ^ 32 :=
  ⟨rfl, by decide, rfl, rfl, by decide⟩
theorem witness_FetchOutsideTheProgramFaults :
    State.reset.imem.readWord 0 = none ∧ State.reset.params.memOrg ≠ .unified ∧
      ({ defaultParams with imemWords := 4 } : Params).imemWords ≤ (4#32).toNat ∧
      (loaded .unified 4).imem.readWord 5 = none ∧ (loaded .unified 4).dmem.readWord 5 = none ∧
      ((loaded .unified 4).writeData 5 7).imem.readWord 5 = none ∧ 5#32 ∈ ((loaded .unified 4).writeData 5 7).stored := by
  decide
theorem witness_FetchOutsideTheProgramFaults_data :
    (0x104#32).toNat < (loaded .unified 4).params.imemWords ∧ (loaded .unified 4).imem.readWord 0x104 = none ∧
      (loaded .unified 4).params.memOrg = .unified ∧ (loaded .unified 4).dmem.readWord 0x104 = some 8#32 ∧
      0x104#32 ∉ (loaded .unified 4).stored := by decide
theorem witness_PlacedInstructionRunsNext : (Instr.floor 31 0).wf State.reset.params.floorEncoding = true := by decide
theorem witness_LaunchedProgramIsFetched :
    ([0x6F#32].length ≤ 2 ^ 32) ∧ [0x6F#32].length ≤ ({ defaultParams with imemWords := 1 } : Params).imemWords := by decide
theorem witness_LaunchedProgramIsFetched_data :
    (dataWord .unified).fetch = .ok 0x00500093#32 ∧
      [((9#32 : Word), (0x00500093#32 : Word))].reverse.lookup 9#32 = some 0x00500093#32 := by decide
theorem witness_EveryStepKeepsTheInvariant :
    Invariant (running 0x00000013#32) ∧ step (running 0x00000013#32) = .next (running 0x00000013#32).advance := by
  refine ⟨⟨by decide, ?_, ?_, fun a h => absurd (h : a ∈ ([] : List Word)) List.not_mem_nil⟩, by rfl⟩
  · intro a i hi h
    have ha : a = 0#32 := by
      by_contra hne
      have h0 : a.toNat ≠ 0 := fun hc => hne (BitVec.eq_of_toNat_eq hc)
      apply h
      show Memory.readByte [(0, 0x13#8), (1, 0#8), (2, 0#8), (3, 0#8)] (4 * a.toNat + i) = none
      unfold Memory.readByte Memory.readByte Memory.readByte Memory.readByte Memory.readByte
      rw [if_neg (by omega), if_neg (by omega), if_neg (by omega), if_neg (by omega)]
    subst ha
    decide
  · intro a i _ h
    exact absurd rfl h
theorem witness_OnlyJumpsAndBranchesRedirect :
    exec (.addi 1 0 1) .reset = .next (State.reset.setX 1 1) ∧ TransfersControl (.addi 1 0 1) = false := ⟨rfl, rfl⟩
theorem witness_OnlyStoresChangeDataMemory :
    exec (.sw 0 0 0) .reset = .next (State.reset.writeData 0 0).advance ∧
      (State.reset.writeData 0 0).advance.dmem ≠ State.reset.dmem ∧ ReadsMemory (.sw 0 0 0) = false := ⟨rfl, by decide, rfl⟩
theorem witness_OnlyStoresChangeDataMemory_separate :
    (loaded .separate 1).params.memOrg = .separate ∧
      ((loaded .separate 1).readX 0 + (0#12).signExtend 32).toNat < (loaded .separate 1).params.dmemWords ∧
      (loaded .separate 1).dmem.readWord 0 = some 7#32 := by decide
theorem witness_AtMostOneRegisterIsWritten : exec (.lui 1 1) .reset = .next (State.reset.setX 1 0x1000) := by rfl
theorem witness_OnlyMemoryAccessesAndMissingInstructionsStop :
    (AccessesMemory (.ib 1) = false ∧ NotInHardware (.ib 1) = false) ∧
      exec (.lw 1 0 0) .reset = .refused (.unwritten 0) ∧
      exec (.sw 1 0 0) (loaded .unfixed 1) = .fault (.badAddress 0) := ⟨by decide, rfl, rfl⟩
theorem witness_GuardedRunIsARunUnderEitherOrganisation :
    echo.params.memOrg = .unfixed ∧ EndsInOutcome (runFrom .selfLoop echo 8 0) = false ∧
      EndsInOutcome (runFrom (.endAddress 4) echo 3 0) = false := by decide
/-- A program of one word that jumps to a data word which is the self-loop. -/
def jumpsToData : State := State.launch ⟨[0x0140006F], [(5, 0x0000006F)], [], 0, defaultParams⟩

theorem witness_GuardedRun_exhausted :
    jumpsToData.params.memOrg = .unfixed ∧ EndsInOutcome (runFrom .selfLoop jumpsToData 1 0) = false ∧
      (match runFrom .selfLoop jumpsToData 1 0 with
        | .exhausted u => some (u.pc, u.inProgram u.pc)
        | _ => none) = some (5, false) := by decide
theorem witness_SelfLoopParksTheMachine : (running 0x0000006F#32).fetch = .ok 0x0000006F#32 := by decide

end Sys2Proof.Tests
end

section
/-! PROOFS. One step: the word at pc, its instruction, and the pc after it (20_memory.md R46; 10_state.md R23). -/

namespace Sys2Proof.Proofs.Stepping

open Sys2Proof.Machine Sys2Proof.Claims

variable {s t : State}

/-! ### The step through its instruction -/

/-- A word of the program below IMEM_WORDS is fetched (R46, R48). -/
theorem fetch_of_imem {w : Word} (hpc : s.pc.toNat < s.params.imemWords) (hw : s.imem.readWord s.pc = some w) :
    s.fetch = .ok w :=
  (fetch_ok_iff s w).mpr ⟨hpc, instructionAt_of_imem hw⟩

/-- The step runs what the fetched word decodes to (R46). -/
theorem step_eq_exec {w : Word} {i : Instr} (hf : s.fetch = .ok w)
    (hd : decodeWith s.params.floorEncoding w = .ok i) : step s = exec i s := by
  simp only [step, hf, hd]

/-! ### The pc after each operand form -/

theorem opImm_next_pc {op : Word → Word → Word} {rd rs1 : XReg} {imm : BitVec 12}
    (h : opImm op rd rs1 imm s = .next t) : t.pc = s.pc + 1#32 := by simp [← opImm_next.mp h]

theorem opShamt_next_pc {op : Word → Nat → Word} {rd rs1 : XReg} {shamt : BitVec 5}
    (h : opShamt op rd rs1 shamt s = .next t) : t.pc = s.pc + 1#32 := by simp [← opShamt_next.mp h]

theorem opReg_next_pc {op : Word → Word → Word} {rd rs1 rs2 : XReg}
    (h : opReg op rd rs1 rs2 s = .next t) : t.pc = s.pc + 1#32 := by simp [← opReg_next.mp h]

theorem fpBinary_next_pc {op : Word → Word → Word} {rd rs1 rs2 : FReg}
    (h : fpBinary op rd rs1 rs2 s = .next t) : t.pc = s.pc + 1#32 := by simp [← fpBinary_next.mp h]

theorem fpUnary_next_pc {op : Word → Word} {rd rs1 : FReg}
    (h : fpUnary op rd rs1 s = .next t) : t.pc = s.pc + 1#32 := by simp [← fpUnary_next.mp h]

theorem fpCompare_next_pc {op : Word → Word → Bool} {rd : XReg} {rs1 rs2 : FReg}
    (h : fpCompare op rd rs1 rs2 s = .next t) : t.pc = s.pc + 1#32 := by simp [← fpCompare_next.mp h]

theorem fpToInt_next_pc {op : Word → Word} {rd : XReg} {rs1 : FReg}
    (h : fpToInt op rd rs1 s = .next t) : t.pc = s.pc + 1#32 := by simp [← fpToInt_next.mp h]

theorem intToFp_next_pc {op : Word → Word} {rd : FReg} {rs1 : XReg}
    (h : intToFp op rd rs1 s = .next t) : t.pc = s.pc + 1#32 := by simp [← intToFp_next.mp h]

/-- A load leaves pc where its write of the loaded word does. -/
theorem loadInto_next_pc {write : State → Word → State} {rs1 : XReg} {imm : BitVec 12}
    (h : loadInto write rs1 imm s = .next t) (hwrite : ∀ v, (write s v).pc = s.pc + 1#32) : t.pc = s.pc + 1#32 := by
  obtain ⟨v, -, rfl⟩ := loadInto_next.mp h
  exact hwrite v

theorem storeFrom_next_pc {value : Word} {rs1 : XReg} {imm : BitVec 12}
    (h : storeFrom value rs1 imm s = .next t) : t.pc = s.pc + 1#32 := by
  obtain ⟨-, rfl⟩ := storeFrom_next.mp h
  simp

/-- `lui` and `auipc` do nothing but write an integer register. -/
theorem setX_next_pc {rd : XReg} {v : Word} (h : (.next (s.setX rd v) : Result) = .next t) :
    t.pc = s.pc + 1#32 := by
  obtain rfl := Host.Outcome.next.inj h
  simp

theorem execOb_next_pc {rs2 : XReg} (h : execOb rs2 s = .next t) : t.pc = s.pc + 1#32 := by
  simp [← execOb_next.mp h]

/-- `ib` waits at its own word where there is no input, and advances where there is (47_io.md R202, R203; log 14). -/
theorem execIb_next_pc {rd : XReg} (h : execIb rd s = .next t) :
    t.pc = s.pc + 1#32 ∨ s.input = [] ∧ t = s := by
  rcases execIb_next.mp h with ⟨hempty, rfl⟩ | ⟨b, rest, -, rfl⟩
  · exact .inr ⟨hempty, rfl⟩
  · exact .inl (by simp)

/-! ### The pc after each instruction -/

/-- Where no jump or branch is run, pc moves to the next word, or an `ib` with no input waits. -/
theorem exec_next_pc {i : Instr} (h : exec i s = .next t) (hi : TransfersControl i = false) :
    t.pc = s.pc + 1#32 ∨ (∃ rd, i = .ib rd) ∧ s.input = [] ∧ t = s := by
  cases i with
  | jal | jalr | beq | bne | blt | bge | bltu | bgeu => exact Bool.noConfusion hi
  | lb | lh | lbu | lhu | sb | sh => exact nomatch h
  | lui | auipc =>
    simp only [exec, execLui, execAuipc] at h
    exact .inl (setX_next_pc h)
  | addi | slti | sltiu | xori | ori | andi =>
    simp only [exec, execAddi, execSlti, execSltiu, execXori, execOri, execAndi] at h
    exact .inl (opImm_next_pc h)
  | slli | srli | srai =>
    simp only [exec, execSlli, execSrli, execSrai] at h
    exact .inl (opShamt_next_pc h)
  | add | sub | sll | slt | sltu | xor | srl | sra | or | and =>
    simp only [exec, execAdd, execSub, execSll, execSlt, execSltu, execXor, execSrl, execSra, execOr, execAnd]
      at h
    exact .inl (opReg_next_pc h)
  | sw | fsw =>
    simp only [exec, execSw, execFsw] at h
    exact .inl (storeFrom_next_pc h)
  | fadd | fsub | fmul | fdiv =>
    simp only [exec, execFadd, execFsub, execFmul, execFdiv] at h
    exact .inl (fpBinary_next_pc h)
  | fsqrt | fmvff | fneg | fabs =>
    simp only [exec, execFsqrt, execFmvff, execFneg, execFabs] at h
    exact .inl (fpUnary_next_pc h)
  | ftoi | floor | ftox =>
    simp only [exec, execFtoi, execFloor, execFtox] at h
    exact .inl (fpToInt_next_pc h)
  | fle | flt | feq =>
    simp only [exec, execFle, execFlt, execFeq] at h
    exact .inl (fpCompare_next_pc h)
  | itof | xtof =>
    simp only [exec, execItof, execXtof] at h
    exact .inl (intToFp_next_pc h)
  | lw rd =>
    simp only [exec, execLw] at h
    exact .inl (loadInto_next_pc h (setX_pc s rd))
  | flw rd =>
    simp only [exec, execFlw] at h
    exact .inl (loadInto_next_pc h (setF_pc s rd))
  | ob => exact .inl (execOb_next_pc h)
  | ib rd => exact (execIb_next_pc h).imp_right (⟨⟨rd, rfl⟩, ·⟩)

end Sys2Proof.Proofs.Stepping

namespace Sys2Proof.Proofs

open Sys2Proof.Proofs.Stepping

/-- Settles O47, by the laws of fetch and step and the case split of the next pc over the instructions. -/
theorem stepRunsTheDecodedInstruction : Obligations.StepRunsTheDecodedInstruction := by
  intro s w
  refine ⟨fetch_of_imem, fun i hf hd => ⟨step_eq_exec hf hd, fun t ht hi hib hpc => ?_⟩⟩
  rcases exec_next_pc ht hi with hnext | ⟨hisIb, hempty, -⟩
  · rw [hnext, BitVec.toNat_add_of_lt (by simpa using hpc)]
    rfl
  · exact absurd hempty (hib hisIb)

end Sys2Proof.Proofs
end

section
/-! PROOFS. Loads and stores: the instructions that have an encoding and no meaning (42_loads_stores.md R121). -/

namespace Sys2Proof.Proofs

open Sys2Proof.Machine

/-- Settles O19: the law of each of the six arms leads to a meaning that is the refusal itself and looks at neither
the state nor its parameters, so the hardware and the specification machine agree (R121). -/
theorem missingInstructionsAreRefused : Obligations.MissingInstructionsAreRefused := by
  intro s a b imm
  refine ⟨?lb, ?lh, ?lbu, ?lhu, ?sb, ?sh⟩
  case lb => rw [exec_lb, execLb]
  case lh => rw [exec_lh, execLh]
  case lbu => rw [exec_lbu, execLbu]
  case lhu => rw [exec_lhu, execLhu]
  case sb => rw [exec_sb, execSb]
  case sh => rw [exec_sh, execSh]

end Sys2Proof.Proofs
end

section
/-! PROOFS. What an instruction can do, said once: the ways it completes, and when it faults or is refused
(10_state.md R29, 60_exceptions.md R210 to R215). -/

namespace Sys2Proof.Proofs.Effects

open Sys2Proof.Machine Sys2Proof.Claims

/-- The two instructions that use the I/O streams. -/
def UsesIo : Instr → Bool
  | .ob .. | .ib .. => true
  | _ => false

/-- The two instructions that write data memory. -/
def Stores : Instr → Bool
  | .sw .. | .fsw .. => true
  | _ => false

/-- The ways instruction `i` can take `s` to a next state. -/
inductive Effect (i : Instr) (s : State) : State → Prop where
  | writesX (hio : UsesIo i = false) (rd : XReg) (v target : Word) : Effect i s ((s.writeX rd v).goto target)
  | writesF (hio : UsesIo i = false) (rd : FReg) (v : Word) : Effect i s (s.setF rd v)
  | jumps (hio : UsesIo i = false) (target : Word) : Effect i s (s.goto target)
  | stores (hi : Stores i = true) (a v : Word) (ha : s.storable a = true) : Effect i s (s.writeData a v).advance
  | puts (rs2 : XReg) (hi : i = .ob rs2) : Effect i s (s.out ((s.readX rs2).extractLsb' 0 8)).advance
  | waits (rd : XReg) (hi : i = .ib rd) (hin : s.input = []) : Effect i s s
  | takes (rd : XReg) (hi : i = .ib rd) (b : Byte) (rest : List Byte) (hin : s.input = b :: rest) :
      Effect i s ((s.setInput rest).setX rd (b.zeroExtend 32))

theorem Effect.setX {i : Instr} (hio : UsesIo i = false) (s : State) (rd : XReg) (v : Word) :
    Effect i s (s.setX rd v) :=
  .writesX hio rd v _

section
variable {i : Instr} {s t : State}

theorem effect_of_opImm {op : Word → Word → Word} {rd rs1 : XReg} {imm : BitVec 12} (hio : UsesIo i = false)
    (h : opImm op rd rs1 imm s = .next t) : Effect i s t := opImm_next.mp h ▸ .setX hio ..

theorem effect_of_opShamt {op : Word → Nat → Word} {rd rs1 : XReg} {shamt : BitVec 5} (hio : UsesIo i = false)
    (h : opShamt op rd rs1 shamt s = .next t) : Effect i s t := opShamt_next.mp h ▸ .setX hio ..

theorem effect_of_opReg {op : Word → Word → Word} {rd rs1 rs2 : XReg} (hio : UsesIo i = false)
    (h : opReg op rd rs1 rs2 s = .next t) : Effect i s t := opReg_next.mp h ▸ .setX hio ..

theorem effect_of_branchIf {cond : Word → Word → Bool} {rs1 rs2 : XReg} {off : BitVec 11} (hio : UsesIo i = false)
    (h : branchIf cond rs1 rs2 off s = .next t) : Effect i s t := by
  rw [← branchIf_next.mp h]
  split
  · exact .jumps hio _
  · exact .jumps hio _

theorem effect_of_specBranchIf {m : String} {cond : Word → Word → Bool} {rs1 rs2 : XReg} {off : BitVec 11}
    (hio : UsesIo i = false) (h : specBranchIf m cond rs1 rs2 off s = .next t) : Effect i s t :=
  effect_of_branchIf hio (specBranchIf_next.mp h).2

theorem effect_of_storeFrom {value : Word} {rs1 : XReg} {imm : BitVec 12} (hi : Stores i = true)
    (h : storeFrom value rs1 imm s = .next t) : Effect i s t := by
  obtain ⟨ha, rfl⟩ := storeFrom_next.mp h
  exact .stores hi _ _ ha

theorem effect_of_fpBinary {op : Word → Word → Word} {rd rs1 rs2 : FReg} (hio : UsesIo i = false)
    (h : fpBinary op rd rs1 rs2 s = .next t) : Effect i s t := fpBinary_next.mp h ▸ .writesF hio ..

theorem effect_of_fpUnary {op : Word → Word} {rd rs1 : FReg} (hio : UsesIo i = false)
    (h : fpUnary op rd rs1 s = .next t) : Effect i s t := fpUnary_next.mp h ▸ .writesF hio ..

theorem effect_of_fpCompare {op : Word → Word → Bool} {rd : XReg} {rs1 rs2 : FReg} (hio : UsesIo i = false)
    (h : fpCompare op rd rs1 rs2 s = .next t) : Effect i s t := fpCompare_next.mp h ▸ .setX hio ..

theorem effect_of_fpToInt {op : Word → Word} {rd : XReg} {rs1 : FReg} (hio : UsesIo i = false)
    (h : fpToInt op rd rs1 s = .next t) : Effect i s t := fpToInt_next.mp h ▸ .setX hio ..

theorem effect_of_intToFp {op : Word → Word} {rd : FReg} {rs1 : XReg} (hio : UsesIo i = false)
    (h : intToFp op rd rs1 s = .next t) : Effect i s t := intToFp_next.mp h ▸ .writesF hio ..

/-- Every instruction that completes does so in one of these ways. -/
theorem effect_of_exec (h : exec i s = .next t) : Effect i s t := by
  cases i with
  | lb | lh | lbu | lhu | sb | sh => exact nomatch h
  | lui | auipc =>
    simp only [exec, execLui, execAuipc, Host.Outcome.next.injEq] at h
    exact h ▸ .setX rfl ..
  | jal | jalr =>
    simp only [exec, execJal, execJalr, Host.Outcome.next.injEq] at h
    exact h ▸ .writesX rfl ..
  | beq | blt =>
    simp only [exec, execBeq, execBlt] at h
    exact effect_of_branchIf rfl h
  | bne | bge | bltu | bgeu =>
    simp only [exec, execBne, execBge, execBltu, execBgeu] at h
    exact effect_of_specBranchIf rfl h
  | addi | slti | sltiu | xori | ori | andi =>
    simp only [exec, execAddi, execSlti, execSltiu, execXori, execOri, execAndi] at h
    exact effect_of_opImm rfl h
  | slli | srli | srai =>
    simp only [exec, execSlli, execSrli, execSrai] at h
    exact effect_of_opShamt rfl h
  | add | sub | sll | slt | sltu | xor | srl | sra | or | and =>
    simp only [exec, execAdd, execSub, execSll, execSlt, execSltu, execXor, execSrl, execSra, execOr, execAnd] at h
    exact effect_of_opReg rfl h
  | lw rd =>
    simp only [exec, execLw] at h
    obtain ⟨v, -, rfl⟩ := loadInto_next.mp h
    exact .setX rfl ..
  | flw rd =>
    simp only [exec, execFlw] at h
    obtain ⟨v, -, rfl⟩ := loadInto_next.mp h
    exact .writesF rfl ..
  | sw | fsw =>
    simp only [exec, execSw, execFsw] at h
    exact effect_of_storeFrom rfl h
  | fadd | fsub | fmul | fdiv =>
    simp only [exec, execFadd, execFsub, execFmul, execFdiv] at h
    exact effect_of_fpBinary rfl h
  | fsqrt | fmvff | fneg | fabs =>
    simp only [exec, execFsqrt, execFmvff, execFneg, execFabs] at h
    exact effect_of_fpUnary rfl h
  | ftoi | floor | ftox =>
    simp only [exec, execFtoi, execFloor, execFtox] at h
    exact effect_of_fpToInt rfl h
  | fle | flt | feq =>
    simp only [exec, execFle, execFlt, execFeq] at h
    exact effect_of_fpCompare rfl h
  | itof | xtof =>
    simp only [exec, execItof, execXtof] at h
    exact effect_of_intToFp rfl h
  | ob rs2 => exact execOb_next.mp h ▸ .puts rs2 rfl
  | ib rd =>
    rcases execIb_next.mp h with ⟨hin, rfl⟩ | ⟨b, rest, hin, rfl⟩
    · exact .waits rd rfl hin
    · exact .takes rd rfl b rest hin

/-- An instruction that accesses no memory and is in the hardware completes in every state. -/
theorem exists_next_of_completes (ha : AccessesMemory i = false) (hn : NotInHardware i = false) (s : State) :
    ∃ t, exec i s = .next t := by
  cases i with
  | lw | flw | sw | fsw => exact Bool.noConfusion ha
  | bne | bge | bltu | bgeu | lb | lh | lbu | lhu | sb | sh => exact Bool.noConfusion hn
  | ib rd =>
    simp only [exec_ib, execIb]
    split
    · exact ⟨_, rfl⟩
    · exact ⟨_, rfl⟩
  | _ => exact ⟨_, rfl⟩

theorem specBranchIf_refused {m : String} {cond : Word → Word → Bool} {rs1 rs2 : XReg} {off : BitVec 11} {r : Refusal} :
    specBranchIf m cond rs1 rs2 off s = .refused r ↔ s.params.instrSet = .hardware ∧ .unimplemented m = r := by
  unfold specBranchIf
  cases s.params.instrSet <;> simp [branchIf]

theorem specBranchIf_ne_fault {m : String} {cond : Word → Word → Bool} {rs1 rs2 : XReg} {off : BitVec 11} {r : Fault} :
    specBranchIf m cond rs1 rs2 off s ≠ .fault r := by
  unfold specBranchIf
  cases s.params.instrSet <;> simp [branchIf]

/-- Only a memory access faults, with the BadAddress of its address. -/
theorem accessesMemory_of_exec_fault {r : Fault} (h : exec i s = .fault r) : AccessesMemory i = true := by
  cases ha : AccessesMemory i with
  | true => rfl
  | false =>
    cases hn : NotInHardware i with
    | false =>
      obtain ⟨t, ht⟩ := exists_next_of_completes ha hn s
      exact nomatch ht.symm.trans h
    | true =>
      cases i with
      | lb | lh | lbu | lhu | sb | sh => exact nomatch h
      | bne | bge | bltu | bgeu => exact absurd h specBranchIf_ne_fault
      | _ => exact Bool.noConfusion hn

/-- A refusal by an instruction is of one the hardware lacks or of an unwritten word. -/
theorem exec_refused {r : Refusal} (h : exec i s = .refused r) :
    NotInHardware i = true ∧ (∃ m, r = .unimplemented m) ∨ ReadsMemory i = true ∧ ∃ a, r = .unwritten a := by
  cases hn : NotInHardware i with
  | false =>
    cases ha : AccessesMemory i with
    | false =>
      obtain ⟨t, ht⟩ := exists_next_of_completes ha hn s
      exact nomatch ht.symm.trans h
    | true =>
      cases i with
      | lw | flw =>
        simp only [exec, execLw, execFlw] at h
        exact .inr ⟨rfl, _, (loadInto_refused.mp h).2.symm⟩
      | sw | fsw =>
        simp only [exec, execSw, execFsw, storeFrom] at h
        split at h
        · exact nomatch h
        · exact nomatch h
      | _ => exact Bool.noConfusion ha
  | true =>
    refine .inl ⟨rfl, ?_⟩
    cases i with
    | lb | lh | lbu | lhu | sb | sh => exact ⟨_, (Host.Outcome.refused.inj h).symm⟩
    | bne | bge | bltu | bgeu => exact ⟨_, (specBranchIf_refused.mp h).2.symm⟩
    | _ => exact Bool.noConfusion hn

end

end Sys2Proof.Proofs.Effects
end

section
/-! PROOFS. Encoding: a word is the concatenation of its fields, so what decodes is the encoding of what it decodes to; the
opcode table, the refused words and the byte images follow from that (30_encoding.md R62 to R82, 20_memory.md R57). -/

namespace Sys2Proof.Proofs.Encoding

open Sys2Proof.Machine Sys2Proof.Claims

/-! ### Decoding what the encoder writes -/

/-- Whether an instruction is `floor`, the one row whose encoding is a parameter (R188). -/
def isFloor : Instr → Bool
  | .floor _ _ => true
  | _ => false

theorem decodeWith_of_decodeFixed {w : Word} {i : Instr} (h : decodeFixed w = .ok i) (fe : FloorEncoding) :
    decodeWith fe w = .ok i := by
  rw [decodeWith, h]

theorem decodeWith_of_error {fe : FloorEncoding} {w : Word} {e : DecodeError} (h : decodeFixed w = .error e) :
    decodeWith fe w = if fe.fits w then .ok (.floor (Field.rd w) (Field.rs1 w)) else .error e := by
  rw [decodeWith, h]

/-- The decoder reads every fixed row from its word: opcode, funct3, funct7 and funct5 select the row, and each operand
comes back from its field. -/
theorem decodeFixed_encodeWith (fe : FloorEncoding) {i : Instr} (h : isFloor i = false) :
    decodeFixed (encodeWith fe i) = .ok i := by
  cases i with
  | floor => exact Bool.noConfusion h
  | lui | auipc | jalr | flw | fsw => simp [encodeWith, decodeFixed]
  | jal | ob | ib => simp [encodeWith, decodeFixed, canonical]
  | beq | bne | blt | bge | bltu | bgeu => simp [encodeWith, decodeFixed, decodeBranch, canonical]
  | lb | lh | lw | lbu | lhu => simp [encodeWith, decodeFixed, decodeLoad]
  | sb | sh | sw => simp [encodeWith, decodeFixed, decodeStore]
  | addi | slti | sltiu | xori | ori | andi | slli | srli | srai => simp [encodeWith, decodeFixed, decodeOpImm]
  | add | sub | sll | slt | sltu | xor | srl | sra | or | and => simp [encodeWith, decodeFixed, decodeOp]
  | fadd | fsub | fmul | fdiv | fsqrt | fmvff | fneg | fabs | ftoi | ftox | fle | flt | feq | itof | xtof =>
    simp [encodeWith, decodeFixed, decodeFp, canonical]

theorem decodeWith_encodeWith (fe : FloorEncoding) {i : Instr} (h : isFloor i = false) :
    decodeWith fe (encodeWith fe i) = .ok i :=
  decodeWith_of_decodeFixed (decodeFixed_encodeWith fe h) fe

/-! ### A word is the concatenation of its fields -/

section
variable {w : Word} {op : BitVec 7} {f3 : BitVec 3} {f7 : BitVec 7} {f5 : BitVec 5}

theorem encodeR_fields (h7 : Field.funct7 w = f7) (h3 : Field.funct3 w = f3) (hop : Field.opcode w = op) :
    Encode.r f7 (Field.rs2 w) (Field.rs1 w) f3 (Field.rd w) op = w := by
  subst h7 h3 hop
  apply BitVec.eq_of_toNat_eq
  simp only [encodeR_toNat, Field.funct7, Field.rs2, Field.rs1, Field.funct3, Field.rd, Field.opcode, toNat_slice]
  omega

theorem encodeI_fields (h3 : Field.funct3 w = f3) (hop : Field.opcode w = op) :
    Encode.i (Field.immI w) (Field.rs1 w) f3 (Field.rd w) op = w := by
  subst h3 hop
  apply BitVec.eq_of_toNat_eq
  simp only [encodeI_toNat, Field.immI, Field.rs1, Field.funct3, Field.rd, Field.opcode, toNat_slice]
  omega

theorem encodeU_fields (hop : Field.opcode w = op) : Encode.u (Field.immU w) (Field.rd w) op = w := by
  subst hop
  apply BitVec.eq_of_toNat_eq
  simp only [encodeU_toNat, Field.immU, Field.rd, Field.opcode, toNat_slice]
  omega

theorem immS_toNat (w : Word) :
    (Field.immS w).toNat = w.toNat / 2 ^ 25 % 2 ^ 7 * 2 ^ 5 + w.toNat / 2 ^ 7 % 2 ^ 5 := by
  rw [Field.immS, toNat_append_add, toNat_slice, toNat_slice]

theorem encodeS_fields (h3 : Field.funct3 w = f3) (hop : Field.opcode w = op) :
    Encode.s (Field.immS w) (Field.rs2 w) (Field.rs1 w) f3 op = w := by
  subst h3 hop
  apply BitVec.eq_of_toNat_eq
  simp only [encodeS_toNat, toNat_slice, immS_toNat, Field.rs2, Field.rs1, Field.funct3, Field.opcode]
  omega

/-- The four pieces of a branch offset, from the highest (R68). -/
theorem offB_slices (w : Word) :
    (Field.offB w).extractLsb' 10 1 = w.extractLsb' 31 1 ∧ (Field.offB w).extractLsb' 9 1 = w.extractLsb' 7 1 ∧
      (Field.offB w).extractLsb' 3 6 = w.extractLsb' 25 6 ∧ (Field.offB w).extractLsb' 0 3 = w.extractLsb' 9 3 := by
  refine ⟨?_, ?_, ?_, ?_⟩
  all_goals
    apply BitVec.eq_of_getLsbD_eq
    intro i hi
    simp only [Field.offB, BitVec.getLsbD_extractLsb', BitVec.getLsbD_append]
    interval_cases i <;> simp

theorem encodeB_fields (h8 : Field.bit8 w = 0#1) (h3 : Field.funct3 w = f3) (hop : Field.opcode w = 0b1100011#7) :
    Encode.b (Field.offB w) (Field.rs2 w) (Field.rs1 w) f3 = w := by
  subst h3
  obtain ⟨h31, h7, h25, h9⟩ := offB_slices w
  rw [Encode.b, h31, h7, h25, h9, ← h8, ← hop]
  apply BitVec.eq_of_getLsbD_eq
  intro i hi
  simp only [Field.bit8, Field.rs2, Field.rs1, Field.funct3, Field.opcode, BitVec.getLsbD_extractLsb',
    BitVec.getLsbD_append]
  interval_cases i <;> simp

/-- The four pieces of a `jal` offset, from the highest (R70). -/
theorem offJ_slices (w : Word) :
    (Field.offJ w).extractLsb' 18 1 = w.extractLsb' 31 1 ∧ (Field.offJ w).extractLsb' 10 8 = w.extractLsb' 12 8 ∧
      (Field.offJ w).extractLsb' 9 1 = w.extractLsb' 20 1 ∧ (Field.offJ w).extractLsb' 0 9 = w.extractLsb' 22 9 := by
  refine ⟨?_, ?_, ?_, ?_⟩
  all_goals
    apply BitVec.eq_of_getLsbD_eq
    intro i hi
    simp only [Field.offJ, BitVec.getLsbD_extractLsb', BitVec.getLsbD_append]
    interval_cases i <;> simp

theorem encodeJ_fields (h21 : Field.bit21 w = 0#1) (hop : Field.opcode w = 0b1101111#7) :
    Encode.j (Field.offJ w) (Field.rd w) = w := by
  obtain ⟨h31, h12, h20, h22⟩ := offJ_slices w
  rw [Encode.j, h31, h12, h20, h22, ← h21, ← hop]
  apply BitVec.eq_of_getLsbD_eq
  intro i hi
  simp only [Field.bit21, Field.rd, Field.opcode, BitVec.getLsbD_extractLsb', BitVec.getLsbD_append]
  interval_cases i <;> simp

theorem encodeFp_fields {rs2 : BitVec 5} (hfmt : Field.fmt w = 0#2) (h5 : Field.funct5 w = f5)
    (h2 : Field.rs2 w = rs2) (h3 : Field.funct3 w = f3) (hop : Field.opcode w = 0b1010011#7) :
    Encode.fp f5 rs2 (Field.rs1 w) f3 (Field.rd w) = w := by
  subst h2
  exact encodeR_fields (by rw [funct7_eq, h5, hfmt]) h3 hop

end

/-! ### What decodes is the encoding of what it decodes to -/

theorem canonical_ok {ok : Bool} {i j : Instr} : canonical ok i = .ok j ↔ ok = true ∧ i = j := by
  cases ok <;> simp [canonical]

section
variable {w : Word} {i : Instr} (fe : FloorEncoding)

theorem encodeWith_of_decodeBranch (hop : Field.opcode w = 0b1100011#7) (h : decodeBranch w = .ok i) :
    encodeWith fe i = w := by
  unfold decodeBranch at h
  split at h
  case h_7 => exact nomatch h
  all_goals
    obtain ⟨h8, rfl⟩ := canonical_ok.mp h
    exact encodeB_fields (eq_of_beq h8) ‹_› hop

theorem encodeWith_of_decodeLoad (hop : Field.opcode w = 0b0000011#7) (h : decodeLoad w = .ok i) :
    encodeWith fe i = w := by
  unfold decodeLoad at h
  split at h
  case h_6 => exact nomatch h
  all_goals
    obtain rfl := Except.ok.inj h
    exact encodeI_fields ‹_› hop

theorem encodeWith_of_decodeStore (hop : Field.opcode w = 0b0100011#7) (h : decodeStore w = .ok i) :
    encodeWith fe i = w := by
  unfold decodeStore at h
  split at h
  case h_4 => exact nomatch h
  all_goals
    obtain rfl := Except.ok.inj h
    exact encodeS_fields ‹_› hop

theorem encodeWith_of_decodeOpImm (hop : Field.opcode w = 0b0010011#7) (h : decodeOpImm w = .ok i) :
    encodeWith fe i = w := by
  unfold decodeOpImm at h
  split at h
  case h_7 h3 =>
    split at h
    case h_1 h7 =>
      obtain rfl := Except.ok.inj h
      exact encodeR_fields h7 h3 hop
    case h_2 => exact nomatch h
  case h_8 h3 =>
    split at h
    case h_3 => exact nomatch h
    all_goals
      obtain rfl := Except.ok.inj h
      exact encodeR_fields ‹_› h3 hop
  case h_9 => exact nomatch h
  all_goals
    obtain rfl := Except.ok.inj h
    exact encodeI_fields ‹_› hop

theorem encodeWith_of_decodeOp (hop : Field.opcode w = 0b0110011#7) (h : decodeOp w = .ok i) :
    encodeWith fe i = w := by
  unfold decodeOp at h
  split at h
  case h_1 h7 =>
    split at h
    case h_9 => exact nomatch h
    all_goals
      obtain rfl := Except.ok.inj h
      exact encodeR_fields h7 ‹_› hop
  case h_2 h7 =>
    split at h
    case h_3 => exact nomatch h
    all_goals
      obtain rfl := Except.ok.inj h
      exact encodeR_fields h7 ‹_› hop
  case h_3 => exact nomatch h

/-- A word of opcode 1010011: the fields the source leaves unnamed are the ones the encoder writes (R82). -/
theorem encodeWith_of_decodeFp (hop : Field.opcode w = 0b1010011#7) (h : decodeFp w = .ok i) :
    encodeWith fe i = w := by
  unfold decodeFp at h
  simp only [Field.funct5] at h
  split at h
  case h_12 => exact nomatch h
  case h_6 h5 =>
    split at h
    case h_4 => exact nomatch h
    all_goals
      obtain ⟨hc, rfl⟩ := canonical_ok.mp h
      simp only [Bool.and_eq_true, beq_iff_eq] at hc
      exact encodeFp_fields hc.1 h5 hc.2 ‹_› hop
  case h_9 h5 =>
    split at h
    case h_4 => exact nomatch h
    all_goals
      obtain ⟨hc, rfl⟩ := canonical_ok.mp h
      exact encodeFp_fields (eq_of_beq hc) h5 rfl ‹_› hop
  case h_1 h5 | h_2 h5 | h_3 h5 | h_4 h5 =>
    obtain ⟨hc, rfl⟩ := canonical_ok.mp h
    simp only [Bool.and_eq_true, beq_iff_eq] at hc
    exact encodeFp_fields hc.1 h5 rfl hc.2 hop
  all_goals
    obtain ⟨hc, rfl⟩ := canonical_ok.mp h
    simp only [Bool.and_eq_true, beq_iff_eq] at hc
    exact encodeFp_fields hc.1.1 ‹_› hc.2 hc.1.2 hop

/-- No word but the encoder's is read as a fixed row. -/
theorem encodeWith_of_decodeFixed (h : decodeFixed w = .ok i) : encodeWith fe i = w := by
  unfold decodeFixed at h
  split at h
  case h_1 hop | h_2 hop =>
    obtain rfl := Except.ok.inj h
    exact encodeU_fields hop
  case h_3 hop =>
    obtain ⟨h21, rfl⟩ := canonical_ok.mp h
    exact encodeJ_fields (eq_of_beq h21) hop
  case h_5 hop => exact encodeWith_of_decodeBranch fe hop h
  case h_6 hop => exact encodeWith_of_decodeLoad fe hop h
  case h_7 hop => exact encodeWith_of_decodeStore fe hop h
  case h_8 hop => exact encodeWith_of_decodeOpImm fe hop h
  case h_9 hop => exact encodeWith_of_decodeOp fe hop h
  case h_12 hop => exact encodeWith_of_decodeFp fe hop h
  case h_15 => exact nomatch h
  case h_4 hop | h_10 hop =>
    split at h
    · obtain rfl := Except.ok.inj h
      exact encodeI_fields ‹_› hop
    · exact nomatch h
  case h_11 hop =>
    split at h
    · obtain rfl := Except.ok.inj h
      exact encodeS_fields ‹_› hop
    · exact nomatch h
  case h_13 hop =>
    split at h
    · obtain ⟨hc, rfl⟩ := canonical_ok.mp h
      simp only [Bool.and_eq_true, beq_iff_eq] at hc
      obtain ⟨⟨h7, h1⟩, hd⟩ := hc
      have henc := encodeR_fields h7 ‹_› hop
      rwa [h1, hd] at henc
    · exact nomatch h
  case h_14 hop =>
    split at h
    · obtain ⟨hc, rfl⟩ := canonical_ok.mp h
      simp only [Bool.and_eq_true, beq_iff_eq] at hc
      obtain ⟨himm, h1⟩ := hc
      have henc := encodeI_fields ‹_› hop
      rwa [himm, h1] at henc
    · exact nomatch h

end

/-! ### The rows of the opcode table (R78) -/

theorem matches_iff {row : TableRow} {w : Word} : row.matches w = true ↔ w &&& row.mask = row.pattern := by
  simp [TableRow.matches]

/-- Every word of an instruction has the fixed bits of its row. -/
theorem row_matches_encodeWith {fe : FloorEncoding} {i : Instr} (h : i.wf fe = true) :
    (i.row fe).matches (encodeWith fe i) = true := by
  open Sys2Proof.Laws.EncodesItsRow in
  suffices hall : Statement i from hall fe h
  cases i
  exacts [lui _ _, auipc _ _, jal _ _, jalr _ _ _, beq _ _ _, bne _ _ _, blt _ _ _, bge _ _ _, bltu _ _ _, bgeu _ _ _,
    lb _ _ _, lh _ _ _, lw _ _ _, lbu _ _ _, lhu _ _ _, sb _ _ _, sh _ _ _, sw _ _ _, addi _ _ _, slti _ _ _,
    sltiu _ _ _, xori _ _ _, ori _ _ _, andi _ _ _, slli _ _ _, srli _ _ _, srai _ _ _, add _ _ _, sub _ _ _,
    sll _ _ _, slt _ _ _, sltu _ _ _, xor _ _ _, srl _ _ _, sra _ _ _, or _ _ _, and _ _ _, flw _ _ _, fsw _ _ _,
    fadd _ _ _, fsub _ _ _, fmul _ _ _, fdiv _ _ _, fsqrt _ _, fmvff _ _, fneg _ _, fabs _ _, ftoi _ _, floor _ _,
    ftox _ _, fle _ _ _, flt _ _ _, feq _ _ _, itof _ _, xtof _ _, ob _, ib _]

/-- The fields under a row's mask are the row's. -/
theorem field_of_matches {row : TableRow} {w : Word} (h : row.matches w = true) (start len : Nat)
    (hm : row.mask.extractLsb' start len = BitVec.allOnes len) :
    w.extractLsb' start len = row.pattern.extractLsb' start len := by
  rw [← matches_iff.mp h, BitVec.extractLsb'_and, hm, BitVec.and_allOnes]

theorem row_mem_fixedRows (fe : FloorEncoding) {i : Instr} (h : isFloor i = false) : i.row fe ∈ fixedRows := by
  cases i with
  | floor => exact Bool.noConfusion h
  | _ => simp [fixedRows, fixedInstrs, fixedInstrsControlMemory, fixedInstrsInteger, fixedInstrsFloatIo, Instr.row]

/-! ### Rows exclude each other -/

theorem fixedRows_pairwise_disjoint : fixedRows.Pairwise (fun p q => p.disjoint q = true) := by decide

theorem eq_or_disjoint_of_mem_fixedRows :
    ∀ p ∈ fixedRows, ∀ q ∈ fixedRows, p = q ∨ p.disjoint q = true := by decide

/-- A word with the fixed bits of two rows has no bit that both fix to different values. -/
theorem not_matches_of_disjoint {p q : TableRow} (h : p.disjoint q = true) (w : Word) :
    ¬ (p.matches w = true ∧ q.matches w = true) := by
  rintro ⟨hp, hq⟩
  refine bne_iff_ne.mp h ?_
  rw [← matches_iff.mp hp, ← matches_iff.mp hq]
  apply BitVec.eq_of_getLsbD_eq
  intro k _
  simp only [BitVec.getLsbD_and, BitVec.getLsbD_xor, BitVec.getLsbD_zero]
  cases w.getLsbD k <;> cases p.mask.getLsbD k <;> cases q.mask.getLsbD k <;> rfl

/-- The three parts of a usable FLOOR_ENCODING (R188, D12). -/
theorem floorEncoding_wf_iff {fe : FloorEncoding} :
    fe.wf = true ↔ fe.pattern &&& fe.mask = fe.pattern ∧ fe.mask &&& floorOperandBits = 0#32 ∧
      ∀ row ∈ fixedRows, TableRow.disjoint ⟨fe.pattern, fe.mask⟩ row = true := by
  simp [FloorEncoding.wf, and_assoc]

theorem wf_of_not_isFloor (fe : FloorEncoding) {i : Instr} (h : isFloor i = false) : i.wf fe = true := by
  cases i with
  | floor => exact Bool.noConfusion h
  | _ => rfl

/-- A word read as a `floor` would be the encoder's under every FLOOR_ENCODING, so under the one that sets all bits; and
that word is illegal. -/
theorem isFloor_of_decodeFixed {w : Word} {i : Instr} (h : decodeFixed w = .ok i) : isFloor i = false := by
  cases i with
  | floor rd rs1 =>
    have hw : 0xFFFFFFFF#32 = w := by
      rw [← encodeWith_of_decodeFixed ⟨0xFFFFFFFF#32, 0#32⟩ h, encodeWith]
      exact (BitVec.allOnes_or (w := 32)).symm
    have herr : decodeFixed 0xFFFFFFFF#32 = .error .illegal := by decide
    rw [hw, h] at herr
    exact nomatch herr
  | _ => rfl

/-- A word that a fixed row reads has the row's fixed bits. -/
theorem row_matches_of_decodeFixed {w : Word} {i : Instr} (h : decodeFixed w = .ok i) (fe : FloorEncoding) :
    (i.row fe).matches w = true := by
  have hm := row_matches_encodeWith (wf_of_not_isFloor fe (isFloor_of_decodeFixed h))
  rwa [encodeWith_of_decodeFixed fe h] at hm

/-- Where `fmv.f.f`, `fneg` or `fabs` is read, rs2 repeats rs1 (R82, D11). -/
theorem rs2_eq_rs1_of_decodeFixed {w : Word} {i : Instr} (h : decodeFixed w = .ok i) (hi : RepeatsSource i = true) :
    Field.rs2 w = Field.rs1 w := by
  rw [← encodeWith_of_decodeFixed .provisional h]
  cases i with
  | fmvff | fneg | fabs => simp [encodeWith]
  | _ => exact Bool.noConfusion hi

/-! ### A word with the fixed bits of a row decodes -/

theorem opcode_mask_of_mem_fixedRows : ∀ row ∈ fixedRows, row.mask.extractLsb' 0 7 = BitVec.allOnes 7 := by decide

/-- The decoder has an arm for every fixed row. -/
theorem decodeFixed_ne_error_of_matches {fe : FloorEncoding} {i : Instr} {w : Word} (hi : isFloor i = false)
    (h : (i.row fe).matches w = true) (hrs : RepeatsSource i = true → Field.rs2 w = Field.rs1 w) (e : DecodeError) :
    decodeFixed w ≠ .error e := by
  have hop : Field.opcode w = _ :=
    field_of_matches h 0 7 (opcode_mask_of_mem_fixedRows _ (row_mem_fixedRows fe hi))
  cases i with
  | floor => exact Bool.noConfusion hi
  | lui | auipc => simp [decodeFixed, hop, Instr.row]
  | jal =>
    simp only [Instr.row] at h hop
    have h21 : Field.bit21 w = _ := field_of_matches h 21 1 (by decide)
    simp [decodeFixed, canonical, hop, h21]
  | beq | bne | blt | bge | bltu | bgeu =>
    simp only [Instr.row] at h hop
    have h3 : Field.funct3 w = _ := field_of_matches h 12 3 (by decide)
    have h8 : Field.bit8 w = _ := field_of_matches h 8 1 (by decide)
    simp [decodeFixed, decodeBranch, canonical, hop, h3, h8]
  | jalr | lb | lh | lw | lbu | lhu | sb | sh | sw | addi | slti | sltiu | xori | ori | andi | flw | fsw =>
    simp only [Instr.row] at h hop
    have h3 : Field.funct3 w = _ := field_of_matches h 12 3 (by decide)
    simp [decodeFixed, decodeLoad, decodeStore, decodeOpImm, hop, h3]
  | slli | srli | srai | add | sub | sll | slt | sltu | xor | srl | sra | or | and =>
    simp only [Instr.row] at h hop
    have h3 : Field.funct3 w = _ := field_of_matches h 12 3 (by decide)
    have h7 : Field.funct7 w = _ := field_of_matches h 25 7 (by decide)
    simp [decodeFixed, decodeOpImm, decodeOp, hop, h3, h7]
  | fadd | fsub | fmul | fdiv | fle | flt | feq =>
    simp only [Instr.row] at h hop
    have h3 : Field.funct3 w = _ := field_of_matches h 12 3 (by decide)
    have hfmt : Field.fmt w = _ := field_of_matches h 25 2 (by decide)
    have h5 : Field.funct5 w = _ := field_of_matches h 27 5 (by decide)
    simp [decodeFixed, decodeFp, canonical, hop, h3, hfmt, h5]
  | fmvff | fneg | fabs =>
    simp only [Instr.row] at h hop
    have h3 : Field.funct3 w = _ := field_of_matches h 12 3 (by decide)
    have hfmt : Field.fmt w = _ := field_of_matches h 25 2 (by decide)
    have h5 : Field.funct5 w = _ := field_of_matches h 27 5 (by decide)
    have h2 := hrs rfl
    simp [decodeFixed, decodeFp, canonical, hop, h3, hfmt, h5, h2]
  | fsqrt | ftoi | ftox | itof | xtof =>
    simp only [Instr.row] at h hop
    have h3 : Field.funct3 w = _ := field_of_matches h 12 3 (by decide)
    have hfmt : Field.fmt w = _ := field_of_matches h 25 2 (by decide)
    have h5 : Field.funct5 w = _ := field_of_matches h 27 5 (by decide)
    have h2 : Field.rs2 w = _ := field_of_matches h 20 5 (by decide)
    simp [decodeFixed, decodeFp, canonical, hop, h3, hfmt, h5, h2]
  | ob =>
    simp only [Instr.row] at h hop
    have h3 : Field.funct3 w = _ := field_of_matches h 12 3 (by decide)
    have h7 : Field.funct7 w = _ := field_of_matches h 25 7 (by decide)
    have h1 : Field.rs1 w = _ := field_of_matches h 15 5 (by decide)
    have hd : Field.rd w = _ := field_of_matches h 7 5 (by decide)
    simp [decodeFixed, canonical, hop, h3, h7, h1, hd]
  | ib =>
    simp only [Instr.row] at h hop
    have h3 : Field.funct3 w = _ := field_of_matches h 12 3 (by decide)
    have himm : Field.immI w = _ := field_of_matches h 20 12 (by decide)
    have h1 : Field.rs1 w = _ := field_of_matches h 15 5 (by decide)
    simp [decodeFixed, canonical, hop, h3, himm, h1]

/-- A word with the fixed bits of a row decodes to an instruction of that row, since no other row has them. -/
theorem decodeFixed_of_matches {fe : FloorEncoding} {i : Instr} {w : Word} (hi : isFloor i = false)
    (h : (i.row fe).matches w = true) (hrs : RepeatsSource i = true → Field.rs2 w = Field.rs1 w) :
    ∃ j, decodeFixed w = .ok j ∧ j.row fe = i.row fe := by
  cases hd : decodeFixed w with
  | error e => exact absurd hd (decodeFixed_ne_error_of_matches hi h hrs e)
  | ok j =>
    refine ⟨j, rfl, (eq_or_disjoint_of_mem_fixedRows _ (row_mem_fixedRows fe (isFloor_of_decodeFixed hd)) _
      (row_mem_fixedRows fe hi)).resolve_right fun hdis => ?_⟩
    exact not_matches_of_disjoint hdis w ⟨row_matches_of_decodeFixed hd fe, h⟩

/-! ### `floor` under a FLOOR_ENCODING (R188, D12) -/

theorem fits_iff {fe : FloorEncoding} {w : Word} : fe.fits w = true ↔ w &&& fe.mask = fe.pattern := by
  simp [FloorEncoding.fits]

/-- Under a usable FLOOR_ENCODING no fixed row reads a word that fits it. -/
theorem decodeFixed_error_of_fits {fe : FloorEncoding} {w : Word} (hfe : fe.wf = true) (hw : fe.fits w = true) :
    ∃ e, decodeFixed w = .error e := by
  cases hd : decodeFixed w with
  | error e => exact ⟨e, rfl⟩
  | ok i =>
    obtain ⟨-, -, hdis⟩ := floorEncoding_wf_iff.mp hfe
    exact absurd ⟨hw, row_matches_of_decodeFixed hd fe⟩
      (not_matches_of_disjoint (hdis _ (row_mem_fixedRows fe (isFloor_of_decodeFixed hd))) w)

/-- A word that fits a usable FLOOR_ENCODING is `floor` of its two fields. -/
theorem decodeWith_of_fits {fe : FloorEncoding} {w : Word} (hfe : fe.wf = true) (hw : fe.fits w = true) :
    decodeWith fe w = .ok (.floor (Field.rd w) (Field.rs1 w)) := by
  obtain ⟨e, he⟩ := decodeFixed_error_of_fits hfe hw
  rw [decodeWith_of_error he, if_pos hw]

/-- A word that decodes is read by a fixed row or is `floor`. -/
theorem decodeWith_ok {fe : FloorEncoding} {w : Word} {i : Instr} (h : decodeWith fe w = .ok i) :
    decodeFixed w = .ok i ∨ fe.fits w = true ∧ i = .floor (Field.rd w) (Field.rs1 w) := by
  cases hd : decodeFixed w with
  | ok j =>
    rw [decodeWith_of_decodeFixed hd] at h
    exact .inl h
  | error e =>
    rw [decodeWith_of_error hd] at h
    split at h
    · exact .inr ⟨‹_›, (Except.ok.inj h).symm⟩
    · exact nomatch h

/-- The word that holds the operands of `floor` is its operand bits. -/
theorem operandWord_eq_and (w : Word) :
    Encode.r 0#7 0#5 (Field.rs1 w) 0#3 (Field.rd w) 0#7 = w &&& floorOperandBits := by
  apply BitVec.eq_of_getLsbD_eq
  intro k hk
  simp only [Encode.r, floorOperandBits, Field.rs1, Field.rd, BitVec.getLsbD_and, BitVec.getLsbD_append,
    BitVec.getLsbD_extractLsb']
  interval_cases k <;> simp

theorem operandWord_and_operandBits (rs1 rd : BitVec 5) :
    Encode.r 0#7 0#5 rs1 0#3 rd 0#7 &&& floorOperandBits = Encode.r 0#7 0#5 rs1 0#3 rd 0#7 := by
  rw [← operandWord_eq_and, rs1_encodeR, rd_encodeR]

/-- A pattern inside its mask has no operand bit. -/
theorem pattern_and_operandBits {fe : FloorEncoding} (hfe : fe.wf = true) : fe.pattern &&& floorOperandBits = 0#32 := by
  obtain ⟨hpm, hmo, -⟩ := floorEncoding_wf_iff.mp hfe
  rw [← hpm, BitVec.and_assoc, hmo, BitVec.and_zero]

theorem fits_encodeWith_floor {fe : FloorEncoding} (hfe : fe.wf = true) (rd rs1 : BitVec 5) :
    fe.fits (encodeWith fe (.floor rd rs1)) = true := by
  obtain ⟨hpm, hmo, -⟩ := floorEncoding_wf_iff.mp hfe
  rw [fits_iff, encodeWith, BitVec.and_or_distrib_right, hpm, ← operandWord_and_operandBits, BitVec.and_assoc,
    BitVec.and_comm floorOperandBits, hmo, BitVec.and_zero, BitVec.or_zero]

/-- A field under the operand bits is the operand word's, since the pattern has none of them. -/
theorem field_encodeWith_floor {fe : FloorEncoding} (hfe : fe.wf = true) (rd rs1 : BitVec 5) (start len : Nat)
    (hbits : floorOperandBits.extractLsb' start len = BitVec.allOnes len) :
    (encodeWith fe (.floor rd rs1)).extractLsb' start len =
      (Encode.r 0#7 0#5 rs1 0#3 rd 0#7).extractLsb' start len := by
  have hp : fe.pattern.extractLsb' start len = 0#len := by
    rw [← BitVec.and_allOnes (x := fe.pattern.extractLsb' start len), ← hbits, ← BitVec.extractLsb'_and,
      pattern_and_operandBits hfe]
    simp
  rw [encodeWith, BitVec.extractLsb'_or, hp, BitVec.zero_or]

theorem decodeWith_encodeWith_floor {fe : FloorEncoding} (hfe : fe.wf = true) (rd rs1 : BitVec 5) :
    decodeWith fe (encodeWith fe (.floor rd rs1)) = .ok (.floor rd rs1) := by
  have hrd := field_encodeWith_floor hfe rd rs1 7 5 (by decide)
  have hrs1 := field_encodeWith_floor hfe rd rs1 15 5 (by decide)
  rw [decodeWith_of_fits hfe (fits_encodeWith_floor hfe rd rs1), Field.rd, Field.rs1, hrd, hrs1]
  exact congrArg _ (congrArg₂ Instr.floor (rd_encodeR ..) (rs1_encodeR ..))

/-- Where the FLOOR_ENCODING fixes every other bit, `floor` has no second word. -/
theorem encodeWith_floor_of_fits {fe : FloorEncoding} {w : Word} (hfull : fe.mask ||| floorOperandBits = 0xFFFFFFFF#32)
    (hw : fe.fits w = true) : encodeWith fe (.floor (Field.rd w) (Field.rs1 w)) = w := by
  rw [encodeWith, operandWord_eq_and, ← fits_iff.mp hw, ← BitVec.and_or_distrib_left, hfull]
  exact BitVec.and_allOnes

end Sys2Proof.Proofs.Encoding

namespace Sys2Proof.Proofs

open Sys2Proof.Machine Sys2Proof.Claims Sys2Proof.Proofs.Encoding

/-- Settles O1: a fixed row is read back field by field, and `floor` because its word fits no fixed row. -/
theorem decodeOfEncodeIsIdentity : Obligations.DecodeOfEncodeIsIdentity := by
  intro fe i hi
  cases i with
  | floor rd rs1 => exact decodeWith_encodeWith_floor hi rd rs1
  | _ => exact decodeWith_encodeWith fe rfl

/-- Settles O2, by the inversion of the decoder for the fixed rows and by the bits of the mask for `floor`. -/
theorem encodeOfDecodeIsIdentity : Obligations.EncodeOfDecodeIsIdentity := by
  intro fe w i _ hfull h
  rcases decodeWith_ok h with hfixed | ⟨hfits, rfl⟩
  · exact encodeWith_of_decodeFixed fe hfixed
  · exact encodeWith_floor_of_fits hfull hfits

/-- Settles O3: a fixed row's word is the encoder's, which has the row's bits, and only that row has them. -/
theorem opcodeTableDecidesTheInstruction : Obligations.OpcodeTableDecidesTheInstruction := by
  intro fe w i hfe
  refine ⟨fun j hj => ?_, fun hm hrs => ?_⟩
  · rcases decodeWith_ok hj with hfixed | ⟨hfits, rfl⟩
    · exact ⟨row_matches_of_decodeFixed hfixed fe, rs2_eq_rs1_of_decodeFixed hfixed⟩
    · exact ⟨hfits, nofun⟩
  · cases hi : isFloor i with
    | false =>
      obtain ⟨j, hj, hrow⟩ := decodeFixed_of_matches hi hm hrs
      exact ⟨j, decodeWith_of_decodeFixed hj fe, hrow⟩
    | true =>
      cases i with
      | floor => exact ⟨_, decodeWith_of_fits hfe hm, rfl⟩
      | _ => exact Bool.noConfusion hi

/-- Settles O4: the fixed rows exclude each other by evaluation, and a usable FLOOR_ENCODING excludes each of them. -/
theorem opcodeTableRowsDoNotOverlap : Obligations.OpcodeTableRowsDoNotOverlap := by
  intro fe hfe
  obtain ⟨-, -, hdis⟩ := floorEncoding_wf_iff.mp hfe
  refine ⟨rfl, List.pairwise_cons.mpr ⟨fun q hq => not_matches_of_disjoint (hdis q hq), ?_⟩⟩
  exact fixedRows_pairwise_disjoint.imp not_matches_of_disjoint

/-- Settles O7, by evaluation of the decoder. -/
theorem sampleWordsDecode : Obligations.SampleWordsDecode := by
  unfold Obligations.SampleWordsDecode
  decide

end Sys2Proof.Proofs
end

section
/-! PROOFS. The words without a meaning (30_encoding.md R80, R82; 41_branches.md R117) and the byte images (20_memory.md
R57). -/

namespace Sys2Proof.Proofs.Refusals

open Sys2Proof.Machine Sys2Proof.Claims Sys2Proof.Proofs.Encoding Sys2Proof.Proofs.Effects

/-! ### When each group of the decoder finds no instruction -/

theorem canonical_error {ok : Bool} {i : Instr} {e : DecodeError} :
    canonical ok i = .error e ↔ ok = false ∧ e = .nonCanonical := by
  cases ok <;> simp [canonical, eq_comm]

/-! The lists write the fields as slices. -/

section
variable (w : Word)
theorem slice_opcode : w.extractLsb' 0 7 = Field.opcode w := rfl
theorem slice_rd : w.extractLsb' 7 5 = Field.rd w := rfl
theorem slice_funct3 : w.extractLsb' 12 3 = Field.funct3 w := rfl
theorem slice_rs1 : w.extractLsb' 15 5 = Field.rs1 w := rfl
theorem slice_rs2 : w.extractLsb' 20 5 = Field.rs2 w := rfl
theorem slice_funct7 : w.extractLsb' 25 7 = Field.funct7 w := rfl
theorem slice_funct5 : w.extractLsb' 27 5 = Field.funct5 w := rfl
theorem slice_fmt : w.extractLsb' 25 2 = Field.fmt w := rfl
theorem slice_immI : w.extractLsb' 20 12 = Field.immI w := rfl
theorem slice_bit8 : w.extractLsb' 8 1 = Field.bit8 w := rfl
theorem slice_bit21 : w.extractLsb' 21 1 = Field.bit21 w := rfl
end

theorem funct3_cases : ∀ f3 : BitVec 3,
    f3 = 0#3 ∨ f3 = 1#3 ∨ f3 = 2#3 ∨ f3 = 3#3 ∨ f3 = 4#3 ∨ f3 = 5#3 ∨ f3 = 6#3 ∨ f3 = 7#3 := by decide

theorem bit_ne_zero {b : BitVec 1} : b ≠ 0#1 ↔ b = 1#1 := by revert b; decide

variable (w : Word)

theorem decodeBranch_error :
    (decodeBranch w = .error .illegal ↔ Field.funct3 w = 2#3 ∨ Field.funct3 w = 3#3) ∧
    (decodeBranch w = .error .nonCanonical ↔ Field.bit8 w = 1#1 ∧ ¬ (Field.funct3 w = 2#3 ∨ Field.funct3 w = 3#3)) := by
  rcases funct3_cases (Field.funct3 w) with h | h | h | h | h | h | h | h
  all_goals simp [decodeBranch, h, canonical_error, bit_ne_zero]

theorem decodeLoad_error :
    (decodeLoad w = .error .illegal ↔ Field.funct3 w = 3#3 ∨ Field.funct3 w = 6#3 ∨ Field.funct3 w = 7#3) ∧
    decodeLoad w ≠ .error .nonCanonical := by
  rcases funct3_cases (Field.funct3 w) with h | h | h | h | h | h | h | h
  all_goals simp [decodeLoad, h]

theorem decodeStore_error :
    (decodeStore w = .error .illegal ↔ 3 ≤ (Field.funct3 w).toNat) ∧ decodeStore w ≠ .error .nonCanonical := by
  rcases funct3_cases (Field.funct3 w) with h | h | h | h | h | h | h | h
  all_goals simp [decodeStore, h]

theorem decodeOpImm_error :
    (decodeOpImm w = .error .illegal ↔ Field.funct3 w = 1#3 ∧ Field.funct7 w ≠ 0#7 ∨
      Field.funct3 w = 5#3 ∧ Field.funct7 w ≠ 0#7 ∧ Field.funct7 w ≠ 0b0100000#7) ∧
    decodeOpImm w ≠ .error .nonCanonical := by
  rcases funct3_cases (Field.funct3 w) with h | h | h | h | h | h | h | h
  all_goals simp only [decodeOpImm, h]
  case inr.inl => split <;> simp_all
  case inr.inr.inr.inr.inr.inl => split <;> simp_all
  all_goals simp

theorem decodeOp_error :
    (decodeOp w = .error .illegal ↔ Field.funct7 w ≠ 0#7 ∧
      ¬ (Field.funct7 w = 0b0100000#7 ∧ (Field.funct3 w = 0#3 ∨ Field.funct3 w = 5#3))) ∧
    decodeOp w ≠ .error .nonCanonical := by
  unfold decodeOp
  split
  case h_3 => simp_all
  all_goals
    rcases funct3_cases (Field.funct3 w) with h | h | h | h | h | h | h | h
    all_goals simp [*]

/-- The words of opcode 1010011 whose funct5, or whose funct3 where the source fixes one, is not assigned (R80). -/
def FpUnassigned (w : Word) : Prop :=
  Field.funct5 w ∉ ([0b00000#5, 0b00001#5, 0b00010#5, 0b00011#5, 0b01011#5, 0b00100#5, 0b11000#5, 0b11100#5, 0b10100#5,
      0b11010#5, 0b11110#5] : List (BitVec 5)) ∨
    (Field.funct5 w = 0b00100#5 ∨ Field.funct5 w = 0b10100#5) ∧ 3 ≤ (Field.funct3 w).toNat

/-- The words of opcode 1010011 with a field that the source leaves unnamed at another value (R82). -/
def FpUncanonical (w : Word) : Prop :=
  Field.fmt w ≠ 0#2 ∨
    Field.funct5 w ∈ ([0b00000#5, 0b00001#5, 0b00010#5, 0b00011#5, 0b01011#5, 0b11010#5, 0b11000#5, 0b11100#5,
      0b11110#5] : List (BitVec 5)) ∧ Field.funct3 w ≠ 0#3 ∨
    Field.funct5 w ∈ ([0b01011#5, 0b11000#5, 0b11100#5, 0b11010#5, 0b11110#5] : List (BitVec 5)) ∧ Field.rs2 w ≠ 0#5 ∨
    Field.funct5 w = 0b00100#5 ∧ Field.rs2 w ≠ Field.rs1 w

theorem decodeFp_error :
    (decodeFp w = .error .illegal ↔ FpUnassigned w) ∧
    (decodeFp w = .error .nonCanonical ↔ FpUncanonical w ∧ ¬ FpUnassigned w) := by
  unfold decodeFp FpUnassigned FpUncanonical
  split
  case h_12 => simp_all
  case h_6 h5 | h_9 h5 =>
    rcases funct3_cases (Field.funct3 w) with h3 | h3 | h3 | h3 | h3 | h3 | h3 | h3
    all_goals simp [h3, h5, canonical_error, ← not_and_or]
  case h_1 h5 | h_2 h5 | h_3 h5 | h_4 h5 => simp [h5, canonical_error, ← not_and_or]
  all_goals
    simp [*, canonical_error, ← not_and_or]
    exact imp_iff_not_or

/-- What the decoder makes of a word of a fixed opcode, in the terms of the lists of R80, R117 and R82. -/
theorem decodeFixed_error :
    (decodeFixed w = .error .illegal ↔ ListedIllegal w) ∧
    (decodeFixed w = .error .nonCanonical ↔ ListedNonCanonical w ∧ ¬ ListedIllegal w) := by
  rw [ListedIllegal, ListedNonCanonical]
  simp only [slice_opcode, slice_rd, slice_funct3, slice_rs1, slice_rs2, slice_funct7, slice_funct5, slice_fmt, slice_immI,
    slice_bit8, slice_bit21]
  unfold decodeFixed
  split
  case h_1 hop | h_2 hop => simp [hop]
  case h_3 hop => simp [hop, canonical_error, bit_ne_zero]
  case h_5 hop => simp [hop, decodeBranch_error]
  case h_6 hop => simp [hop, decodeLoad_error]
  case h_7 hop => simp [hop, decodeStore_error]
  case h_8 hop => simp [hop, decodeOpImm_error]
  case h_9 hop => simp [hop, decodeOp_error]
  case h_12 hop => simp [hop, decodeFp_error, FpUnassigned, FpUncanonical]
  case h_15 => simp_all
  case h_4 hop | h_10 hop | h_11 hop => split <;> simp_all
  case h_13 hop =>
    split
    · simp_all [canonical_error, ← not_and_or]
      exact imp_iff_not_or
    · simp_all
  case h_14 hop => split <;> simp_all [canonical_error, ← not_and_or]

theorem decodeFixed_error_cases {e : DecodeError} (h : decodeFixed w = .error e) : e = .illegal ∨ e = .nonCanonical := by
  simp only [decodeFixed, decodeBranch, decodeLoad, decodeStore, decodeOpImm, decodeOp, decodeFp] at h
  repeat' split at h
  all_goals simp_all [canonical_error]

/-! ### When a step is refused for its word -/

section
variable {w} {s : State}

theorem decodeWith_of_not_fits {fe : FloorEncoding} (h : fe.fits w = false) : decodeWith fe w = decodeFixed w := by
  cases hd : decodeFixed w with
  | ok i => exact decodeWith_of_decodeFixed hd fe
  | error e => simp [decodeWith_of_error hd, h]

theorem step_refused_iff (hf : s.fetch = .ok w) (hfit : s.params.floorEncoding.fits w = false) :
    (step s = .refused (.illegal w) ↔ decodeFixed w = .error .illegal) ∧
    (step s = .refused (.nonCanonical w) ↔ decodeFixed w = .error .nonCanonical) := by
  simp only [step, hf, decodeWith_of_not_fits hfit]
  cases hd : decodeFixed w with
  | ok i =>
    have hex {r : Refusal} (h : exec i s = .refused r) := exec_refused h
    constructor
    · simpa using fun h => by simpa using hex h
    · simpa using fun h => by simpa using hex h
  | error e => rcases decodeFixed_error_cases w hd with rfl | rfl <;> simp

end

/-! ### Images given as bytes (20_memory.md R57) -/

/-- The four bytes of a word put together. -/
theorem slices_wordOfBytes (b0 b1 b2 b3 : Byte) :
    (wordOfBytes b0 b1 b2 b3).extractLsb' 0 8 = b0 ∧ (wordOfBytes b0 b1 b2 b3).extractLsb' 8 8 = b1 ∧
      (wordOfBytes b0 b1 b2 b3).extractLsb' 16 8 = b2 ∧ (wordOfBytes b0 b1 b2 b3).extractLsb' 24 8 = b3 := by
  have hw : (wordOfBytes b0 b1 b2 b3).toNat = ((b3.toNat * 2 ^ 8 + b2.toNat) * 2 ^ 8 + b1.toNat) * 2 ^ 8 + b0.toNat := by
    show (b3 ++ b2 ++ b1 ++ b0).toNat = _
    simp only [toNat_append_add]
  refine ⟨?_, ?_, ?_, ?_⟩
  all_goals
    apply BitVec.eq_of_toNat_eq
    rw [toNat_slice, hw]
    omega

/-- Bytes short of a word give none. -/
theorem wordsOfBytes_of_short {bytes : List Byte}
    (h : ∀ b0 b1 b2 b3 rest, bytes = b0 :: b1 :: b2 :: b3 :: rest → False) :
    wordsOfBytes bytes = [] ∧ bytes.length < 4 := by
  match bytes with
  | [] | [_] | [_, _] | [_, _, _] => simp [wordsOfBytes]
  | b0 :: b1 :: b2 :: b3 :: rest => exact (h b0 b1 b2 b3 rest rfl).elim

theorem wordsOfBytes_length (bytes : List Byte) : (wordsOfBytes bytes).length = bytes.length / 4 := by
  induction bytes using wordsOfBytes.induct with
  | case1 b0 b1 b2 b3 rest ih =>
    simp only [wordsOfBytes, List.length_cons, ih]
    omega
  | case2 bytes hshort =>
    obtain ⟨hnil, hlen⟩ := wordsOfBytes_of_short hshort
    simp [hnil, Nat.div_eq_of_lt hlen]

theorem bytes_of_wordsOfBytes (bytes : List Byte) (k : Nat) (w : Word) (hw : (wordsOfBytes bytes)[k]? = some w) :
    bytes[4 * k]? = some (w.extractLsb' 0 8) ∧ bytes[4 * k + 1]? = some (w.extractLsb' 8 8) ∧
      bytes[4 * k + 2]? = some (w.extractLsb' 16 8) ∧ bytes[4 * k + 3]? = some (w.extractLsb' 24 8) := by
  induction bytes using wordsOfBytes.induct generalizing k with
  | case1 b0 b1 b2 b3 rest ih =>
    cases k with
    | zero =>
      obtain rfl : wordOfBytes b0 b1 b2 b3 = w := by simpa [wordsOfBytes] using hw
      obtain ⟨h0, h1, h2, h3⟩ := slices_wordOfBytes b0 b1 b2 b3
      simp [h0, h1, h2, h3]
    | succ k => simpa [Nat.mul_add] using ih k (by simpa [wordsOfBytes] using hw)
  | case2 bytes hshort => simp [(wordsOfBytes_of_short hshort).1] at hw

end Sys2Proof.Proofs.Refusals

namespace Sys2Proof.Proofs

open Sys2Proof.Proofs.Refusals

/-- Settles O5, by the inversion of the decoder's illegal words. -/
theorem listedIllegalWordsAreRefused : Obligations.ListedIllegalWordsAreRefused := by
  intro s w hf hfit
  rw [(step_refused_iff hf hfit).1, (decodeFixed_error w).1]

/-- Settles O6: a word in neither list meets neither error of the decoder. -/
theorem listedNonCanonicalWordsAreRefused : Obligations.ListedNonCanonicalWordsAreRefused := by
  intro s w hf hfit
  obtain ⟨hill, hnon⟩ := decodeFixed_error w
  refine ⟨by rw [(step_refused_iff hf hfit).2, hnon], fun hn hi => ?_⟩
  rw [decodeWith_of_not_fits hfit]
  cases hd : decodeFixed w with
  | ok i => exact ⟨i, rfl⟩
  | error e =>
    rcases decodeFixed_error_cases w hd with rfl | rfl
    · exact absurd (hill.mp hd) hi
    · exact absurd (hnon.mp hd).1 hn

/-- Settles O8, by induction over the byte string, four bytes at a time. -/
theorem imageWordsAreLittleEndian : Obligations.ImageWordsAreLittleEndian :=
  fun bytes => ⟨wordsOfBytes_length bytes, bytes_of_wordsOfBytes bytes⟩

end Sys2Proof.Proofs
end

section
/-! PROOFS. The register files, and the integer instructions: upper immediates, jumps, branches and computation
(10_state.md R20 to R27, 40_upper_and_jumps.md, 41_branches.md, 43_op_imm.md, 44_op.md). -/

namespace Sys2Proof.Proofs.Words

open Sys2Proof.Machine Sys2Proof.Claims Sys2Proof.Proofs.Encoding

/-! ### Word arithmetic in numbers -/

theorem ofInt_toNat (a : Word) : BitVec.ofInt 32 a.toNat = a := by
  rw [BitVec.ofInt_natCast, BitVec.ofNat_toNat, BitVec.setWidth_eq]

theorem signExtend_eq_ofInt {n : Nat} (x : BitVec n) : x.signExtend 32 = BitVec.ofInt 32 x.toInt := rfl

/-- The sum of an unsigned base and a signed offset (R41, R68, R70, R103). -/
theorem add_signExtend {n : Nat} (a : Word) (x : BitVec n) :
    a + x.signExtend 32 = BitVec.ofInt 32 (a.toNat + x.toInt) := by
  rw [BitVec.ofInt_add, ofInt_toNat, signExtend_eq_ofInt]

theorem add_one_eq_ofNat (a : Word) : a + 1#32 = BitVec.ofNat 32 (a.toNat + 1) := by
  rw [BitVec.ofNat_add, BitVec.ofNat_toNat, BitVec.setWidth_eq]

theorem upper_eq_ofNat (imm : BitVec 20) : upper imm = BitVec.ofNat 32 (imm.toNat * 4096) := by
  apply BitVec.eq_of_toNat_eq
  simp only [upper, toNat_append_add, BitVec.toNat_ofNat]
  omega

theorem add_upper (a : Word) (imm : BitVec 20) : a + upper imm = BitVec.ofNat 32 (a.toNat + imm.toNat * 4096) := by
  rw [BitVec.ofNat_add, BitVec.ofNat_toNat, BitVec.setWidth_eq, upper_eq_ofNat]

theorem flagWord_decide (p : Prop) [Decidable p] : flagWord (decide p) = oneIf p := by
  by_cases h : p <;> simp [flagWord, oneIf, h]

theorem shiftAmount_eq (b : Word) : shiftAmount b = b.toNat % 32 := by
  simp [shiftAmount]

theorem shiftLeft_eq_ofNat (a : Word) (n : Nat) : a <<< n = BitVec.ofNat 32 (a.toNat * 2 ^ n) := by
  apply BitVec.eq_of_toNat_eq
  rw [BitVec.toNat_shiftLeft, Nat.shiftLeft_eq, BitVec.toNat_ofNat]

theorem ushiftRight_eq_ofNat (a : Word) (n : Nat) : a >>> n = BitVec.ofNat 32 (a.toNat / 2 ^ n) := by
  apply BitVec.eq_of_toNat_eq
  rw [BitVec.toNat_ushiftRight, Nat.shiftRight_eq_div_pow, BitVec.toNat_ofNat,
    Nat.mod_eq_of_lt (Nat.lt_of_le_of_lt (Nat.div_le_self ..) a.isLt)]

theorem sshiftRight_eq_ofInt (a : Word) (n : Nat) : a.sshiftRight n = BitVec.ofInt 32 (a.toInt / 2 ^ n) := by
  rw [BitVec.sshiftRight, Int.shiftRight_eq_div_pow]
  norm_cast

theorem add_eq_ofNat (a b : Word) : a + b = BitVec.ofNat 32 (a.toNat + b.toNat) := by
  rw [BitVec.ofNat_add, BitVec.ofNat_toNat, BitVec.ofNat_toNat, BitVec.setWidth_eq, BitVec.setWidth_eq]

theorem sub_eq_ofInt (a b : Word) : a - b = BitVec.ofInt 32 (a.toInt - b.toInt) := by
  rw [Int.sub_eq_add_neg, BitVec.ofInt_add, BitVec.ofInt_neg, BitVec.ofInt_toInt, BitVec.ofInt_toInt, BitVec.sub_eq_add_neg]

/-- The constant idiom of R100: the upper part carries one where the lower part is negative. -/
theorem upper_add_lower (c : Word) :
    upper ((c + 0x800#32).extractLsb' 12 20) + (c.extractLsb' 0 12).signExtend 32 = c := by
  rw [add_signExtend, upper_eq_ofNat]
  apply BitVec.eq_of_toNat_eq
  have hc := c.isLt
  have hsign := BitVec.toInt_eq_toNat_cond (c.extractLsb' 0 12)
  simp only [toNat_slice] at hsign
  simp only [BitVec.toNat_ofInt, BitVec.toNat_ofNat, toNat_slice, BitVec.toNat_add]
  split at hsign <;> omega

/-! ### An instruction with its word -/

/-- A word written out field by field is the encoder's, so it decodes to its instruction under every FLOOR_ENCODING. -/
theorem wordGivesX_of_setX {w : Word} {i : Instr} {s : State} {rd : XReg} {v v' : Word} (hi : isFloor i = false)
    (hw : ∀ fe, encodeWith fe i = w) (hexec : exec i s = .next (s.setX rd v')) (hv : v' = v) :
    WordGivesX w i s rd v :=
  ⟨fun fe => hw fe ▸ decodeWith_encodeWith fe hi, hv ▸ givesX_of_setX hexec⟩

/-- Both outcomes of a branch (R110). -/
theorem givesPc_of_branchIf {i : Instr} {s : State} {cond : Word → Word → Bool} {rs1 rs2 : XReg} {off : BitVec 11}
    (h : exec i s = branchIf cond rs1 rs2 off s) :
    GivesPc i s (if cond (s.readX rs1) (s.readX rs2) then BitVec.ofInt 32 (s.pc.toNat + off.toInt)
      else BitVec.ofNat 32 (s.pc.toNat + 1)) := by
  apply givesPc_of_goto
  rw [h, branchIf]
  split
  · rw [add_signExtend]
  · rw [State.advance, add_one_eq_ofNat]

/-- A branch that the hardware lacks, in the specification's machine (R81). -/
theorem givesPc_of_specBranchIf {m : String} {i : Instr} {s : State} {cond : Word → Word → Bool} {rs1 rs2 : XReg}
    {off : BitVec 11} (hs : s.params.instrSet = .specification) (h : exec i s = specBranchIf m cond rs1 rs2 off s) :
    GivesPc i s (if cond (s.readX rs1) (s.readX rs2) then BitVec.ofInt 32 (s.pc.toNat + off.toInt)
      else BitVec.ofNat 32 (s.pc.toNat + 1)) :=
  givesPc_of_branchIf (h.trans (by rw [specBranchIf, hs]))

end Sys2Proof.Proofs.Words

namespace Sys2Proof.Proofs

open Sys2Proof.Machine Sys2Proof.Claims Sys2Proof.Proofs.Encoding Sys2Proof.Proofs.Words Sys2Proof.Proofs.Effects

/-! ### Registers -/

/-- Settles O9, by the laws of a read after a write. -/
theorem registersReadBack : Obligations.RegistersReadBack := by
  intro s v
  refine ⟨⟨readX_zero s, writeX_zero s v⟩, fun r hr => ?_, fun r q hq => ?_, fun r hr => ?_, fun r hr => ?_,
    fun r q hq => ?_⟩
  · rw [readX_writeX, if_pos rfl, if_neg hr]
  · rw [readX_writeX, if_neg hq]
  · rw [readF_writeF, if_pos ⟨rfl, (fpConstant_none_iff r).mpr hr⟩]
  · obtain ⟨c, hc⟩ := Option.ne_none_iff_exists'.mp (mt (fpConstant_none_iff r).mp hr)
    exact writeF_of_constant s hc v
  · rw [readF_writeF, if_neg fun h => hq h.1]

/-- The constants that `lui` alone generates have no low bits (R26). -/
theorem low_bits_of_fpConstant : ∀ r : FReg, 11 ≤ r.toNat ∧ r.toNat ≤ 20 ∨ r.toNat = 26 ∨ r.toNat = 27 →
    (fpConstant r).map (·.extractLsb' 0 12) = some 0#12 := by decide

/-- Settles O10, by the law of a constant register. -/
theorem constantRegistersReadTheirPatterns : Obligations.ConstantRegistersReadTheirPatterns := by
  intro s
  refine ⟨?_, ?_, ?_, ?_, ?_, ?_, ?_, ?_, ?_, ?_, ?_, ?_, ?_, ?_, ?_, ?_, ?_, ?_, ?_, ?_, fun r hr => ?_⟩
  case refine_21 =>
    obtain ⟨c, hc, hlow⟩ := Option.map_eq_some_iff.mp (low_bits_of_fpConstant r hr)
    rw [readF_of_constant s hc]
    exact hlow
  all_goals exact readF_of_constant s rfl

/-! ### Upper immediates and jumps -/

/-- Settles O11. -/
theorem auipcAddsToPc : Obligations.AuipcAddsToPc := fun s _ imm =>
  wordGivesX_of_setX rfl (fun _ => rfl) rfl (add_upper s.pc imm)

/-- Settles O12. -/
theorem luiSetsUpperBits : Obligations.LuiSetsUpperBits := fun _ _ imm =>
  wordGivesX_of_setX rfl (fun _ => rfl) rfl (upper_eq_ofNat imm)

/-- Settles O13: the target is a sum of words, read as a number. -/
theorem jumpsLinkAndTransfer : Obligations.JumpsLinkAndTransfer := by
  intro s rd rs1 off imm
  rw [← add_one_eq_ofNat, ← add_signExtend, ← add_signExtend]
  exact ⟨givesX_of_goto rfl, givesX_of_goto rfl⟩

/-- A jump through a register that the instruction before has written. -/
theorem givesX_jalr_of_setX (s : State) {rt : XReg} (hrt : rt ≠ 0#5) (rd : XReg) {lo : BitVec 12} {v target : Word}
    (htarget : v + lo.signExtend 32 = target) :
    GivesX (.jalr rd rt lo) (s.setX rt v) rd (BitVec.ofNat 32 (s.pc.toNat + 2)) target := by
  have hlink : (s.setX rt v).pc + 1#32 = BitVec.ofNat 32 (s.pc.toNat + 2) := by
    rw [setX_pc, BitVec.ofNat_add, BitVec.ofNat_toNat, BitVec.setWidth_eq, BitVec.add_assoc]
    rfl
  have hread : (s.setX rt v).readX rt = v := by rw [readX_setX, if_pos rfl, if_neg hrt]
  rw [← hlink, ← htarget]
  exact givesX_of_goto (by rw [exec_jalr, execJalr, hread])

/-- Settles O14: the first instruction leaves the upper part of the target in the register that the jump reads. -/
theorem farJumpReachesItsTarget : Obligations.FarJumpReachesItsTarget := by
  intro s rt rd hi lo hrt
  refine ⟨⟨_, rfl, givesX_jalr_of_setX s hrt rd ?_⟩, ⟨_, rfl, givesX_jalr_of_setX s hrt rd ?_⟩⟩
  · rw [add_upper, signExtend_eq_ofInt, ← BitVec.ofInt_natCast, ← BitVec.ofInt_add]
    norm_cast
  · rw [upper_eq_ofNat, signExtend_eq_ofInt, ← BitVec.ofInt_natCast, ← BitVec.ofInt_add]
    norm_cast

/-- Settles O15, by the constant idiom of R100. -/
theorem luiAndAddiBuildAnyConstant : Obligations.LuiAndAddiBuildAnyConstant := by
  intro s rd c hrd
  refine ⟨_, _, rfl, rfl, ?_, ?_⟩
  · rw [readX_setX, if_pos rfl, if_neg hrd, readX_setX, if_pos rfl, if_neg hrd]
    exact upper_add_lower c
  · rw [setX_pc, setX_pc, BitVec.add_assoc]
    rfl

/-! ### Branches -/

/-- Settles O16. -/
theorem beqBranchesOnEqualBits : Obligations.BeqBranchesOnEqualBits := by
  intro s rs1 rs2 off
  have h : GivesPc (.beq rs1 rs2 off) s _ := givesPc_of_branchIf rfl
  refine ⟨fun fe => decodeWith_encodeWith fe (i := .beq rs1 rs2 off) rfl, fun heq => ?_, fun hne => ?_⟩
  · rwa [if_pos (by simpa [condEq] using heq)] at h
  · rwa [if_neg (by simpa [condEq] using hne)] at h

/-- Settles O17. -/
theorem bltBranchesOnSignedLess : Obligations.BltBranchesOnSignedLess := by
  intro s rs1 rs2 off
  have h : GivesPc (.blt rs1 rs2 off) s _ := givesPc_of_branchIf rfl
  refine ⟨fun hlt => ?_, fun hle => ?_⟩
  · rwa [if_pos (by simpa [condLtS] using hlt)] at h
  · rwa [if_neg (by simpa [condLtS] using hle)] at h

/-- Settles O18: in the specification's machine each is the branch on its condition, and the hardware refuses it. -/
theorem specificationBranchesTransfer : Obligations.SpecificationBranchesTransfer := by
  intro s rs1 rs2 off taken next a b
  refine ⟨fun hs => ⟨?bne, ?bge, ?bltu, ?bgeu⟩, fun hs => ?hardware⟩
  case bne => simpa [condEq] using givesPc_of_specBranchIf hs (exec_bne s rs1 rs2 off)
  case bge => simpa [condLtS] using givesPc_of_specBranchIf hs (exec_bge s rs1 rs2 off)
  case bltu => simpa [condLtU] using givesPc_of_specBranchIf hs (exec_bltu s rs1 rs2 off)
  case bgeu => simpa [condLtU] using givesPc_of_specBranchIf hs (exec_bgeu s rs1 rs2 off)
  case hardware =>
    exact ⟨specBranchIf_refused.mpr ⟨hs, rfl⟩, specBranchIf_refused.mpr ⟨hs, rfl⟩, specBranchIf_refused.mpr ⟨hs, rfl⟩,
      specBranchIf_refused.mpr ⟨hs, rfl⟩⟩

/-! ### Integer computation -/

/-- Settles O20. -/
theorem immediateInstructionsCompute : Obligations.ImmediateInstructionsCompute := by
  intro s rd rs1 imm shamt a
  refine ⟨?addi, ?xori, ?ori, ?andi, ?slli, ?srli⟩
  case addi =>
    refine wordGivesX_of_setX rfl (fun _ => rfl) rfl ?_
    rw [BitVec.ofInt_add, BitVec.ofInt_toInt, signExtend_eq_ofInt]
  case xori => exact wordGivesX_of_setX rfl (fun _ => rfl) rfl rfl
  case ori => exact wordGivesX_of_setX rfl (fun _ => rfl) rfl rfl
  case andi => exact wordGivesX_of_setX rfl (fun _ => rfl) rfl rfl
  case slli => exact wordGivesX_of_setX rfl (fun _ => rfl) rfl (shiftLeft_eq_ofNat ..)
  case srli => exact wordGivesX_of_setX rfl (fun _ => rfl) rfl (ushiftRight_eq_ofNat ..)

/-- Settles O21: `slti` compares the signed values, `sltiu` the patterns, both after sign extension. -/
theorem immediateComparisonsAndSraiCompute : Obligations.ImmediateComparisonsAndSraiCompute := by
  intro s rd rs1 imm shamt a
  refine ⟨?slti, ?sltiu, ?srai⟩
  case slti =>
    refine wordGivesX_of_setX rfl (fun _ => rfl) rfl ?_
    simp only [condLtS, flagWord_decide, BitVec.toInt_signExtend_of_le (show 12 ≤ 32 by decide), a]
  case sltiu => exact wordGivesX_of_setX rfl (fun _ => rfl) rfl (flagWord_decide _)
  case srai => exact wordGivesX_of_setX rfl (fun _ => rfl) rfl (sshiftRight_eq_ofInt ..)

/-- Settles O22. -/
theorem registerInstructionsCompute : Obligations.RegisterInstructionsCompute := by
  intro s rd rs1 rs2 a b
  refine ⟨?add, ?sub, ?xor, ?or, ?and⟩
  case add => exact wordGivesX_of_setX rfl (fun _ => rfl) rfl (add_eq_ofNat a b)
  case sub => exact wordGivesX_of_setX rfl (fun _ => rfl) rfl (sub_eq_ofInt a b)
  case xor => exact wordGivesX_of_setX rfl (fun _ => rfl) rfl rfl
  case or => exact wordGivesX_of_setX rfl (fun _ => rfl) rfl rfl
  case and => exact wordGivesX_of_setX rfl (fun _ => rfl) rfl rfl

/-- Settles O23: the shift amount is the low five bits of the register. -/
theorem registerShiftsAndComparisonsCompute : Obligations.RegisterShiftsAndComparisonsCompute := by
  intro s rd rs1 rs2 a b
  have hamount : shiftAmount b = b.toNat % 32 := shiftAmount_eq b
  refine ⟨?sll, ?slt, ?sltu, ?srl, ?sra⟩
  case sll => exact wordGivesX_of_setX rfl (fun _ => rfl) rfl (hamount ▸ shiftLeft_eq_ofNat ..)
  case slt => exact wordGivesX_of_setX rfl (fun _ => rfl) rfl (flagWord_decide _)
  case sltu => exact wordGivesX_of_setX rfl (fun _ => rfl) rfl (flagWord_decide _)
  case srl => exact wordGivesX_of_setX rfl (fun _ => rfl) rfl (hamount ▸ ushiftRight_eq_ofNat ..)
  case sra => exact wordGivesX_of_setX rfl (fun _ => rfl) rfl (hamount ▸ sshiftRight_eq_ofInt ..)

end Sys2Proof.Proofs
end

section
/-! PROOFS. Loads and stores (42_loads_stores.md, 45_fp_load_store.md; 20_memory.md R40 to R57; 10_state.md R35). -/

namespace Sys2Proof.Proofs.LoadStore

open Sys2Proof.Machine Sys2Proof.Claims

variable {s : State} {rs1 : XReg} {imm : BitVec 12}

/-! ### A load from its address -/

/-- What both loads do with a word that is there (R124, R161). -/
theorem loads_of_load_value {a v : Word} (ha : s.effective rs1 imm = a) (hv : s.load a = .value v) (rd : XReg)
    (fd : FReg) : GivesX (.lw rd rs1 imm) s rd v (s.pc + 1#32) ∧ GivesF (.flw fd rs1 imm) s fd v := by
  subst ha
  exact ⟨givesX_of_setX (by rw [exec_lw, execLw, loadInto, hv]),
    givesF_of_setF (by rw [exec_flw, execFlw, loadInto, hv])⟩

theorem loads_of_load_bad {a : Word} (ha : s.effective rs1 imm = a) (hv : s.load a = .bad) (rd : XReg) (fd : FReg) :
    exec (.lw rd rs1 imm) s = .fault (.badAddress a) ∧ exec (.flw fd rs1 imm) s = .fault (.badAddress a) := by
  subst ha
  exact ⟨by rw [exec_lw, execLw, loadInto, hv], by rw [exec_flw, execFlw, loadInto, hv]⟩

theorem loads_of_load_unwritten {a : Word} (ha : s.effective rs1 imm = a) (hv : s.load a = .unwritten) (rd : XReg)
    (fd : FReg) : exec (.lw rd rs1 imm) s = .refused (.unwritten a) ∧ exec (.flw fd rs1 imm) s = .refused (.unwritten a) := by
  subst ha
  exact ⟨by rw [exec_lw, execLw, loadInto, hv], by rw [exec_flw, execFlw, loadInto, hv]⟩

/-! ### A store to its address -/

/-- What both stores do at an address where a store has a meaning (R129, R162). -/
theorem stores_of_storable {a : Word} (ha : s.effective rs1 imm = a) (hs : s.storable a = true) (rs2 : XReg)
    (fs2 : FReg) :
    GivesWord (.sw rs2 rs1 imm) s a (s.readX rs2) ∧ GivesWord (.fsw fs2 rs1 imm) s a (s.readF fs2) := by
  subst ha
  exact ⟨givesWord_of_writeData (by rw [exec_sw, execSw, storeFrom, if_pos hs]),
    givesWord_of_writeData (by rw [exec_fsw, execFsw, storeFrom, if_pos hs])⟩

theorem stores_of_not_storable {a : Word} (ha : s.effective rs1 imm = a) (hs : s.storable a ≠ true) (rs2 : XReg)
    (fs2 : FReg) :
    exec (.sw rs2 rs1 imm) s = .fault (.badAddress a) ∧ exec (.fsw fs2 rs1 imm) s = .fault (.badAddress a) := by
  subst ha
  exact ⟨by rw [exec_sw, execSw, storeFrom, if_neg hs], by rw [exec_fsw, execFsw, storeFrom, if_neg hs]⟩

/-! ### Where a load finds its word -/

theorem loadable_of_outside {a : Word} (hw : a.toNat < s.params.dmemWords)
    (h : s.inProgram a = false ∨ s.params.memOrg = .separate) : s.loadable a ∧ s.loadedMemory a = s.dmem := by
  refine ⟨⟨hw, ?_⟩, if_neg ?_⟩
  · rcases h with h | h <;> simp [h]
  · rcases h with h | h <;> simp [h]

theorem inProgram_of_readWord {a v : Word} (h : s.imem.readWord a = some v) : s.inProgram a = true := by
  rw [State.inProgram, Memory.holds, h]
  rfl

theorem loadable_of_unified {a v : Word} (hw : a.toNat < s.params.dmemWords) (hm : s.params.memOrg = .unified)
    (h : s.imem.readWord a = some v) : s.loadable a ∧ s.loadedMemory a = s.imem :=
  ⟨⟨hw, by simp [hm]⟩, if_pos ⟨inProgram_of_readWord h, hm⟩⟩

/-! ### A load after a store -/

/-- A store leaves what every load consults but the word stored. -/
theorem load_writeData_of_ne {a b : Word} (v : Word) (h : b ≠ a) : ((s.writeData a v).advance).load b = s.load b := by
  by_cases hl : s.loadable b
  · have hl' : ((s.writeData a v).advance).loadable b := hl
    have hp : ((s.writeData a v).advance).inProgram b = s.inProgram b := rfl
    rw [load_of_loadable hl, load_of_loadable hl', State.loadedMemory, State.loadedMemory, hp]
    by_cases hm : s.inProgram b = true ∧ s.params.memOrg = .unified
    · simp [hm]
    · simp [hm, loadFrom, Memory.readWord_writeWord_of_ne _ _ h]
  · have hl' : ¬ ((s.writeData a v).advance).loadable b := hl
    rw [load_of_not_loadable hl, load_of_not_loadable hl']

/-- Where a store has a meaning, the load of its address reads data memory. -/
theorem load_writeData_self {a : Word} (v : Word) (h : s.storable a = true) :
    ((s.writeData a v).advance).load a = .value v := by
  obtain ⟨hw, hp⟩ := (storable_iff s a).mp h
  have hsame : ((s.writeData a v).advance).inProgram a = s.inProgram a := rfl
  obtain ⟨hl, hm⟩ := loadable_of_outside (s := (s.writeData a v).advance) hw (hsame ▸ hp.symm)
  rw [load_value_iff]
  exact ⟨hl, by rw [hm]; simp⟩

end Sys2Proof.Proofs.LoadStore

namespace Sys2Proof.Proofs

open Sys2Proof.Machine Sys2Proof.Claims Sys2Proof.Proofs.LoadStore

/-- Settles O24: each of the three cases says which memory the load reads. -/
theorem loadsBringTheWord : Obligations.LoadsBringTheWord := by
  intro s rd rs1 fd imm v a hw h
  refine loads_of_load_value rfl ((load_value_iff s a v).mpr ?_) rd fd
  rcases h with ⟨hout, hv⟩ | ⟨hm, hv⟩
  · obtain ⟨hl, hmem⟩ := loadable_of_outside hw hout
    exact ⟨hl, hmem ▸ hv⟩
  · obtain ⟨hl, hmem⟩ := loadable_of_unified hw hm hv
    exact ⟨hl, hmem ▸ hv⟩

/-- Settles O25: a load stops where it reaches no memory and where the memory holds no word. -/
theorem loadsStopWhereThereIsNoWord : Obligations.LoadsStopWhereThereIsNoWord := by
  intro s rd rs1 fd imm a
  refine ⟨fun h => loads_of_load_bad rfl ((load_bad_iff s a).mpr fun hl => ?_) rd fd, fun hw hout hnone => ?_⟩
  · obtain ⟨hw, hguard⟩ := hl
    exact h.elim (fun hle => absurd hw (Nat.not_lt.mpr hle)) fun ⟨hm, hp⟩ => hguard ⟨hp, hm⟩
  · obtain ⟨hl, hmem⟩ := loadable_of_outside hw hout
    exact loads_of_load_unwritten rfl ((load_unwritten_iff s a).mpr ⟨hl, hmem ▸ hnone⟩) rd fd

/-- Settles O26. -/
theorem storesPutTheWord : Obligations.StoresPutTheWord := by
  intro s rs2 rs1 fs2 imm a hw hout
  exact stores_of_storable rfl ((storable_iff s a).mpr ⟨hw, hout.symm⟩) rs2 fs2

/-- Settles O27. -/
theorem storesStopOutsideDataMemory : Obligations.StoresStopOutsideDataMemory := by
  intro s rs2 rs1 fs2 imm a h
  refine stores_of_not_storable rfl (fun hs => ?_) rs2 fs2
  obtain ⟨hw, hout⟩ := (storable_iff s a).mp hs
  rcases h with hle | ⟨hm, hp⟩
  · exact absurd hw (Nat.not_lt.mpr hle)
  · exact hout.elim hm fun hp' => Bool.noConfusion (hp.symm.trans hp')

/-- Settles O28: a store has a meaning only where the load of its address reads data memory. -/
theorem loadReturnsTheLatestStore : Obligations.LoadReturnsTheLatestStore := by
  intro s t i rs1 q1 rd fd imm jmm v hi ht a b
  have hstore : s.storable a = true ∧ (s.writeData a v).advance = t := by
    rcases hi with ⟨rs2, rfl, rfl⟩ | ⟨fs2, rfl, rfl⟩
    · exact storeFrom_next.mp ((exec_sw s rs2 rs1 imm).symm.trans ht)
    · exact storeFrom_next.mp ((exec_fsw s fs2 rs1 imm).symm.trans ht)
  obtain ⟨hs, rfl⟩ := hstore
  exact ⟨fun hb => loads_of_load_value hb (load_writeData_self v hs) rd fd, load_writeData_of_ne v⟩

end Sys2Proof.Proofs
end

section
/-! PROOFS. The streams and the machine: runs, launch, fetch, the invariant, and what depends on what (47_io.md,
20_memory.md, 60_exceptions.md, 70_reset_and_hazards.md). -/

namespace Sys2Proof.Proofs.Running

open Sys2Proof.Machine Sys2Proof.Claims Sys2Proof.Proofs.Stepping Sys2Proof.Proofs.Effects

variable {s t u : State} {i : Instr} {w : Word}

/-! ### Runs -/

/-- A run of one step more is a step and then a run, on every machine behind the host's interface. -/
theorem core_run_succ_next (M : Host.Core) {n : Nat} {s t : M.State} :
    M.run (n + 1) s = .next t ↔ ∃ u, M.step s = .next u ∧ M.run n u = .next t := by
  rw [Host.Core.run]
  cases M.step s <;> simp

theorem run_succ_next {n : Nat} :
    Sys2Proof.core.run (n + 1) s = .next t ↔ ∃ u, step s = .next u ∧ Sys2Proof.core.run n u = .next t :=
  core_run_succ_next Sys2Proof.core

/-- A state that a step leaves as it is, every run leaves as it is. -/
theorem run_of_step_self (h : step s = .next s) (n : Nat) : Sys2Proof.core.run n s = .next s := by
  induction n with
  | zero => rfl
  | succ n ih => exact run_succ_next.mpr ⟨s, h, ih⟩

/-- A step that answers a next state runs an instruction. -/
theorem exists_nextInstr_of_step (h : step s = .next t) : ∃ i, nextInstr s = some i ∧ exec i s = .next t := by
  obtain ⟨w, i, hf, hd, he⟩ := step_next.mp h
  exact ⟨i, by simp [nextInstr, hf, hd, Except.toOption], he⟩

/-! ### The program and the parameters -/

theorem program_of_effect (h : Effect i s t) : t.imem = s.imem ∧ t.params = s.params := by
  cases h <;> simp

theorem program_of_step (h : step s = .next t) : t.imem = s.imem ∧ t.params = s.params := by
  obtain ⟨i, -, he⟩ := exists_nextInstr_of_step h
  exact program_of_effect (effect_of_exec he)

theorem program_of_run {n : Nat} (h : Sys2Proof.core.run n s = .next t) : t.imem = s.imem ∧ t.params = s.params := by
  induction n generalizing s with
  | zero =>
    obtain rfl := Host.Outcome.next.inj h
    exact ⟨rfl, rfl⟩
  | succ n ih =>
    obtain ⟨u, hu, hrun⟩ := run_succ_next.mp h
    obtain ⟨himem, hparams⟩ := program_of_step hu
    obtain ⟨himem', hparams'⟩ := ih hrun
    exact ⟨himem'.trans himem, hparams'.trans hparams⟩

/-! ### The streams (47_io.md R200 to R204) -/

theorem low_byte_eq (v : Word) : v.extractLsb' 0 8 = BitVec.ofNat 8 v.toNat := by
  apply BitVec.eq_of_toNat_eq
  rw [toNat_slice, BitVec.toNat_ofNat, Nat.pow_zero, Nat.div_one]

theorem zeroExtend_eq (b : Byte) : b.zeroExtend 32 = BitVec.ofNat 32 b.toNat := by
  apply BitVec.eq_of_toNat_eq
  rw [BitVec.toNat_setWidth, BitVec.toNat_ofNat]

theorem onlyX_takes (s : State) (rest : List Byte) (rd : XReg) (b : Byte) :
    OnlyX s ((s.setInput rest).setX rd (b.zeroExtend 32)) rd (BitVec.ofNat 32 b.toNat) := by
  intro r
  rw [readX_setX, readX_setInput, zeroExtend_eq]

/-- An instruction other than `ib` and `ob` neither takes nor puts a byte. -/
theorem no_bytes_of_not_usesIo (hi : nextInstr s = some i) (hio : UsesIo i = false) : byteTaken s = [] ∧ bytePut s = [] := by
  cases i with
  | ob | ib => exact Bool.noConfusion hio
  | _ => exact ⟨by rw [byteTaken, hi], by rw [bytePut, hi]⟩

/-- One step takes from the front of IN and puts at the end of OUT, one byte at most. -/
theorem streams_of_step (h : step s = .next t) :
    s.input = byteTaken s ++ t.input ∧ t.output = s.output ++ bytePut s ∧
      (byteTaken s).length + (bytePut s).length ≤ 1 := by
  obtain ⟨i, hi, he⟩ := exists_nextInstr_of_step h
  cases effect_of_exec he with
  | writesX hio | writesF hio | jumps hio =>
    obtain ⟨htaken, hput⟩ := no_bytes_of_not_usesIo hi hio
    simp [htaken, hput]
  | stores hst =>
    have hio : UsesIo i = false := by
      cases i with
      | sw | fsw => rfl
      | _ => exact Bool.noConfusion hst
    obtain ⟨htaken, hput⟩ := no_bytes_of_not_usesIo hi hio
    simp [htaken, hput]
  | puts rs2 hob =>
    subst hob
    simp [byteTaken, bytePut, hi, low_byte_eq]
  | waits rd hib hin =>
    subst hib
    simp [byteTaken, bytePut, hi, hin]
  | takes rd hib b rest hin =>
    subst hib
    simp [byteTaken, bytePut, hi, hin]

theorem alongRun_succ (f : State → List Byte) (n : Nat) (h : step s = .next t) :
    alongRun f (n + 1) s = f s ++ alongRun f n t := by
  simp only [alongRun, h]

theorem streams_of_run {n : Nat} (h : Sys2Proof.core.run n s = .next t) :
    s.input = alongRun byteTaken n s ++ t.input ∧ t.output = s.output ++ alongRun bytePut n s ∧
      (alongRun byteTaken n s).length + (alongRun bytePut n s).length ≤ n := by
  induction n generalizing s with
  | zero =>
    obtain rfl := Host.Outcome.next.inj h
    simp [alongRun]
  | succ n ih =>
    obtain ⟨u, hu, hrun⟩ := run_succ_next.mp h
    obtain ⟨hin, hout, hlen⟩ := streams_of_step hu
    obtain ⟨hin', hout', hlen'⟩ := ih hrun
    rw [alongRun_succ _ _ hu, alongRun_succ _ _ hu]
    refine ⟨by rw [hin, hin', List.append_assoc], by rw [hout', hout, List.append_assoc], ?_⟩
    simp only [List.length_append]
    omega

/-- An `ib` that finds input puts the first byte in its register. -/
theorem onlyX_of_step_ib {rd : XReg} (hi : nextInstr s = some (.ib rd)) (h : step s = .next t) (hin : s.input ≠ []) :
    ∃ b rest, s.input = b :: rest ∧ OnlyX s t rd (BitVec.ofNat 32 b.toNat) := by
  obtain ⟨i, hi', he⟩ := exists_nextInstr_of_step h
  obtain rfl : Instr.ib rd = i := Option.some.inj (hi.symm.trans hi')
  rcases execIb_next.mp ((exec_ib s rd).symm.trans he) with ⟨hnil, -⟩ | ⟨b, rest, hb, rfl⟩
  · exact absurd hnil hin
  · exact ⟨b, rest, hb, onlyX_takes s rest rd b⟩

/-! ### The invariant -/

/-- A word write keeps a memory made of whole words. -/
theorem wholeWords_writeWord {m : Memory} (h : m.WholeWords) (a v : Word) : (m.writeWord a v).WholeWords := by
  intro b k hk hread
  by_cases hb : b = a
  · subst hb
    simp
  · have hne : b.toNat ≠ a.toNat := fun e => hb (BitVec.eq_of_toNat_eq e)
    rw [Memory.readByte_writeWord_of_outside _ _ _ _ (by simp only [Memory.key]; omega)] at hread
    rw [Memory.readWord_writeWord_of_ne _ _ hb]
    exact h b k hk hread

/-- The parts of the invariant, with the well-formedness of the state taken apart. -/
theorem invariant_iff (s : State) :
    Invariant s ↔ (s.imem.wf = true ∧ s.dmem.wf = true ∧ risesStrictly s.stored = true ∧ s.params.wf = true) ∧
      s.imem.WholeWords ∧ s.dmem.WholeWords ∧ ∀ a ∈ s.stored, s.dmem.readWord a ≠ none := by
  simp [Invariant, State.wf, and_assoc]

theorem invariant_writeData (h : Invariant s) (a v : Word) : Invariant (s.writeData a v).advance := by
  obtain ⟨⟨himem, hdmem, hstored, hparams⟩, hwi, hwd, hin⟩ := (invariant_iff s).mp h
  refine (invariant_iff _).mpr ⟨⟨himem, Memory.wf_writeWord _ _ _ hdmem, risesStrictly_insertAddress _ _ hstored,
    hparams⟩, hwi, wholeWords_writeWord hwd a v, fun b hb => ?_⟩
  by_cases hba : b = a
  · subst hba
    simp
  · have hmem : b ∈ s.stored := ((mem_insertAddress a b s.stored).mp hb).resolve_left hba
    simpa [Memory.readWord_writeWord_of_ne _ _ hba] using hin b hmem

/-- The invariant is about the memories, the record of stored words and the parameters. -/
theorem invariant_congr (himem : t.imem = s.imem) (hdmem : t.dmem = s.dmem) (hstored : t.stored = s.stored)
    (hparams : t.params = s.params) : Invariant t ↔ Invariant s := by
  rw [invariant_iff, invariant_iff, himem, hdmem, hstored, hparams]

theorem invariant_of_effect (h : Effect i s t) (hs : Invariant s) : Invariant t := by
  cases h with
  | stores _ a v => exact invariant_writeData hs a v
  | _ => exact (invariant_congr (by simp) (by simp) (by simp) (by simp)).mpr hs

/-! ### Launch (70_reset_and_hazards.md R232) -/

/-- A program stands at consecutive addresses; where it wraps it is not longer than the address space. -/
theorem readWord_placeProgram (a : Word) (l : List Word) (hl : l.length ≤ 2 ^ 32) (m : Memory) (b : Word) :
    (placeProgram m b l).readWord a = (l[(a - b).toNat]?).or (m.readWord a) := by
  induction l generalizing m b with
  | nil => simp [placeProgram]
  | cons v rest ih =>
    simp only [List.length_cons] at hl
    rw [placeProgram, ih (by omega)]
    by_cases hab : a = b
    · subst hab
      have hlast : (a - (a + 1#32)).toNat = 2 ^ 32 - 1 := by
        rw [BitVec.toNat_sub, BitVec.toNat_add, BitVec.toNat_ofNat]
        omega
      rw [hlast, List.getElem?_eq_none (by omega)]
      simp
    · have hsucc : (a - b).toNat = (a - (b + 1#32)).toNat + 1 := by
        have hne : a.toNat ≠ b.toNat := fun e => hab (BitVec.eq_of_toNat_eq e)
        rw [BitVec.toNat_sub, BitVec.toNat_sub, BitVec.toNat_add, BitVec.toNat_ofNat]
        omega
      rw [hsucc, List.getElem?_cons_succ, Memory.readWord_writeWord_of_ne _ _ hab]

/-- Of the words that a data image gives an address the last one stands there. -/
theorem readWord_placeData (a : Word) (l : List (Word × Word)) (m : Memory) :
    (placeData m l).readWord a = (l.reverse.lookup a).or (m.readWord a) := by
  induction l generalizing m with
  | nil => simp [placeData]
  | cons c rest ih =>
    obtain ⟨b, v⟩ := c
    rw [placeData, ih, List.reverse_cons, List.lookup_append, Option.or_assoc]
    congr 1
    by_cases hab : a = b
    · subst hab
      simp
    · simp [Memory.readWord_writeWord_of_ne _ _ hab, List.lookup, beq_false_of_ne hab]

end Sys2Proof.Proofs.Running

namespace Sys2Proof.Proofs

open Sys2Proof.Machine Sys2Proof.Claims Sys2Proof.Proofs.Stepping Sys2Proof.Proofs.Effects Sys2Proof.Proofs.Encoding
  Sys2Proof.Proofs.Running

/-! ### Input and output -/

/-- Settles O43. -/
theorem obAppendsOneByte : Obligations.ObAppendsOneByte := by
  intro s rs2
  refine ⟨_, rfl, ?_, rfl, rfl, fun _ => rfl, fun _ => rfl, ⟨fun _ => rfl, rfl⟩, ⟨fun _ => rfl, rfl⟩⟩
  rw [advance_output, out_output, low_byte_eq]

/-- Settles O44. -/
theorem ibTakesTheNextByte : Obligations.IbTakesTheNextByte := by
  intro s rd b rest hin
  refine ⟨_, execIb_next.mpr (.inr ⟨b, rest, hin, rfl⟩), by simp, onlyX_takes s rest rd b, by simp, by simp, ?_, ?_, ?_⟩
  all_goals simp [SameF, SameData, SameProgram, State.readF]

/-- Settles O45: with no input the step is the state itself, and the byte supplied is the only one there. -/
theorem ibWaitsForInput : Obligations.IbWaitsForInput := by
  intro s w rd b n hf hd hin
  have hwaits : s.waits = true := by simp [State.waits, hf, hd, hin]
  have hself : step s = .next s := by
    rw [step_eq_exec hf hd]
    exact execIb_next.mpr (.inl ⟨hin, rfl⟩)
  refine ⟨hwaits, run_of_step_self hself n, _, ?_, by simp, by simp, onlyX_takes (s.supply b) [] rd b, by simp⟩
  have hf' : (s.supply b).fetch = .ok w := hf
  rw [step_eq_exec hf' hd]
  exact execIb_next.mpr (.inr ⟨b, [], by simp [hin], rfl⟩)

/-- Settles O46, by induction on the run; what a run leaves of IN begins at the byte after the ones taken. -/
theorem streamsKeepTheirOrder : Obligations.StreamsKeepTheirOrder := by
  intro n s t hrun
  obtain ⟨hin, hout, hlen⟩ := streams_of_run hrun
  refine ⟨hin, hout, hlen, fun u rd hi hu hne => ?_⟩
  obtain ⟨b, rest, hb, honly⟩ := onlyX_of_step_ib hi hu hne
  exact ⟨b, by rw [hin, hb]; simp, honly⟩

/-! ### Fetch and launch -/

/-- Settles O48, by the laws of fetch. -/
theorem fetchOutsideTheProgramFaults : Obligations.FetchOutsideTheProgramFaults := by
  intro s
  refine ⟨fun h => ?_, fun w hpc hnone hm hw hst => ?_⟩
  · have hf : s.fetch = .error (.badAddress s.pc) := by
      refine (fetch_error_iff s _).mpr ⟨rfl, h.imp_right fun ⟨hnone, hor⟩ => ?_⟩
      exact (instructionAt_none_iff s s.pc).mpr ⟨hnone, fun hm => (hor.resolve_left (absurd hm)).symm⟩
    rw [step, hf]
  · exact (fetch_ok_iff s w).mpr ⟨hpc, (instructionAt_some_iff s s.pc w).mpr (.inr ⟨hnone, hm, hst, hw⟩)⟩

/-- Settles O49: the word placed at pc is fetched and decodes to the instruction. -/
theorem placedInstructionRunsNext : Obligations.PlacedInstructionRunsNext := by
  intro s i hi t
  have hword : BitVec.ofNat 32 ((encodeWith s.params.floorEncoding i).toNat % 2 ^ 32) =
      encodeWith s.params.floorEncoding i := by
    rw [Nat.mod_eq_of_lt (BitVec.isLt _), BitVec.ofNat_toNat, BitVec.setWidth_eq]
  have hf : t.fetch = .ok (encodeWith s.params.floorEncoding i) := by
    refine fetch_of_imem (Nat.lt_of_lt_of_le (Nat.lt_succ_self _) (Nat.le_max_right ..)) ?_
    rw [← hword]
    exact Memory.readWord_writeWord_self ..
  exact ⟨step_eq_exec hf (decodeOfEncodeIsIdentity _ i hi), rfl, fun _ => rfl, fun _ => rfl, ⟨fun _ => rfl, rfl⟩, rfl, rfl⟩

/-- Settles O50: the fetch reads the program first and, under unified, the data image behind it. -/
theorem launchedProgramIsFetched : Obligations.LaunchedProgramIsFetched := by
  intro l a hlen hwords
  have hprog : (State.launch l).imem.readWord a = l.program[a.toNat]? := by
    rw [State.launch, readWord_placeProgram a _ hlen, BitVec.sub_zero]
    simp
  have hdata : (State.launch l).dmem.readWord a = l.data.reverse.lookup a := by
    rw [State.launch, readWord_placeData]
    simp
  have hstored : (State.launch l).stored = [] := rfl
  have hparams : (State.launch l).params = l.params := rfl
  simp only [State.fetch, State.instructionAt, hprog, hdata, hstored, hparams]
  cases hw : l.program[a.toNat]? with
  | some w =>
    have hlt : a.toNat < l.program.length := (List.getElem?_eq_some_iff.mp hw).1
    simp [Nat.not_le.mpr (Nat.lt_of_lt_of_le hlt hwords)]
  | none =>
    rcases Nat.lt_or_ge a.toNat l.params.imemWords with hlt | hge
    · cases l.params.memOrg <;> cases l.data.reverse.lookup a <;> simp [hlt, Nat.not_le.mpr hlt]
    · cases l.params.memOrg <;> cases l.data.reverse.lookup a <;> simp [hge, Nat.not_lt.mpr hge]

/-! ### The invariant -/

/-- Settles O51: only a store changes what the invariant is about, and a store keeps it. -/
theorem everyStepKeepsTheInvariant : Obligations.EveryStepKeepsTheInvariant := by
  intro s t hs h
  obtain ⟨i, -, he⟩ := exists_nextInstr_of_step h
  exact invariant_of_effect (effect_of_exec he) hs

/-- Settles O52: nothing is in either memory. -/
theorem resetHasTheInvariant : Obligations.ResetHasTheInvariant :=
  (invariant_iff _).mpr ⟨by decide, fun _ _ _ h => absurd rfl h, fun _ _ _ h => absurd rfl h, nofun⟩

/-- Settles O53. -/
theorem resetStateIsAsListed : Obligations.ResetStateIsAsListed := by
  refine ⟨rfl, fun r => ?_, fun r hr => ?_, rfl, rfl, rfl, rfl, rfl, rfl, rfl, rfl, rfl, rfl, rfl, rfl, rfl⟩
  · simp [State.readX, State.reset, resetRegisterValue]
  · rw [State.readF, (fpConstant_none_iff r).mpr hr]
    simp [State.reset, resetRegisterValue]

/-- Settles O54, by induction on the run. -/
theorem programAndParametersNeverChange : Obligations.ProgramAndParametersNeverChange :=
  fun _ _ _ h => program_of_run h

/-! ### What an instruction changes -/

/-- Settles O55, by the case split of the next pc over the instructions. -/
theorem onlyJumpsAndBranchesRedirect : Obligations.OnlyJumpsAndBranchesRedirect :=
  fun _ _ _ h hi => exec_next_pc h hi

/-- Settles O57: each way to complete writes one register file at most, in one place. -/
theorem atMostOneRegisterIsWritten : Obligations.AtMostOneRegisterIsWritten := by
  intro i s t h
  cases effect_of_exec h with
  | writesX _ rd => exact .inl ⟨rd, fun r => by simp, fun q hq => by simp [readX_writeX, hq]⟩
  | takes rd => exact .inl ⟨rd, fun r => by simp, fun q hq => by simp [readX_setX, hq]⟩
  | writesF _ rd => exact .inr ⟨rd, fun r => by simp, fun q hq => by simp [readF_setF, hq]⟩
  | jumps | stores | puts | waits => exact .inl ⟨0#5, fun r => by simp, fun q _ => by simp⟩

/-- Settles O58. -/
theorem onlyMemoryAccessesAndMissingInstructionsStop : Obligations.OnlyMemoryAccessesAndMissingInstructionsStop := by
  intro i s
  refine ⟨fun ha hn => exists_next_of_completes ha hn s, fun r h => accessesMemory_of_exec_fault h, fun r h => ?_⟩
  rcases exec_refused h with ⟨hn, -⟩ | ⟨hr, -⟩
  · exact .inr hn
  · refine .inl ?_
    cases i with
    | lw | flw => rfl
    | _ => exact Bool.noConfusion hr

/-- Settles O60: the jump to itself writes nothing, as its link goes to x0. -/
theorem selfLoopParksTheMachine : Obligations.SelfLoopParksTheMachine := by
  intro s budget done hf
  have hd : decodeWith s.params.floorEncoding 0x0000006F#32 = .ok (.jal 0 0) :=
    decodeWith_of_decodeFixed (by decide) _
  have hself : step s = .next s := by
    rw [step_eq_exec hf hd, exec_jal, execJal, show (0 : XReg) = 0#5 from rfl, writeX_zero]
    simp [State.goto]
  have hends : Halt.ends .selfLoop s = true := by simp [Halt.ends, fetches, hf]
  refine ⟨run_of_step_self hself budget, ?_⟩
  cases budget with
  | zero => rw [runFrom, if_pos hends]
  | succ n => rw [runFrom, if_pos hends]

end Sys2Proof.Proofs
end

section
/-! PROOFS. What an instruction depends on: a change of the state that no register or stream sees passes through every
instruction that accesses no memory; the memory accesses are followed one by one (10_state.md R32, 20_memory.md R45). -/

namespace Sys2Proof.Proofs.Dependence

open Sys2Proof.Machine Sys2Proof.Claims Sys2Proof.Proofs.Stepping Sys2Proof.Proofs.Effects Sys2Proof.Proofs.LoadStore
  Sys2Proof.Proofs.Running

/-! ### Changes that registers, pc, streams and the parameters of arithmetic do not see -/

/-- A change of the state that commutes with every operation but those on memory. -/
structure Transparent (g : State → State) : Prop where
  pc (s : State) : (g s).pc = s.pc
  readX (s : State) (r : XReg) : (g s).readX r = s.readX r
  readF (s : State) (r : FReg) : (g s).readF r = s.readF r
  input (s : State) : (g s).input = s.input
  instrSet (s : State) : (g s).params.instrSet = s.params.instrSet
  numerics (s : State) : (g s).params.numerics = s.params.numerics
  ftoiTie (s : State) : (g s).params.ftoiTie = s.params.ftoiTie
  goto (s : State) (a : Word) : (g s).goto a = g (s.goto a)
  writeX (s : State) (r : XReg) (v : Word) : (g s).writeX r v = g (s.writeX r v)
  writeF (s : State) (r : FReg) (v : Word) : (g s).writeF r v = g (s.writeF r v)
  out (s : State) (b : Byte) : (g s).out b = g (s.out b)
  setInput (s : State) (bs : List Byte) : (g s).setInput bs = g (s.setInput bs)

/-- Memories and the parameters of memory and launch can be changed without a register or a stream seeing it. -/
theorem transparent_update (imem dmem : Memory → Memory) (params : Params → Params)
    (hset : ∀ p, (params p).instrSet = p.instrSet) (hnum : ∀ p, (params p).numerics = p.numerics)
    (htie : ∀ p, (params p).ftoiTie = p.ftoiTie) :
    Transparent (fun s => { s with imem := imem s.imem, dmem := dmem s.dmem, params := params s.params }) where
  pc _ := rfl
  readX _ _ := rfl
  readF _ _ := rfl
  input _ := rfl
  instrSet s := hset s.params
  numerics s := hnum s.params
  ftoiTie s := htie s.params
  goto _ _ := rfl
  writeX s r v := by unfold State.writeX; split <;> rfl
  writeF s r v := by unfold State.writeF; split <;> rfl
  out _ _ := rfl
  setInput _ _ := rfl

theorem transparent_dmem (m : Memory) : Transparent (fun s => { s with dmem := m }) :=
  transparent_update id (fun _ => m) id (fun _ => rfl) (fun _ => rfl) (fun _ => rfl)

theorem transparent_imem (m : Memory) : Transparent (fun s => { s with imem := m }) :=
  transparent_update (fun _ => m) id id (fun _ => rfl) (fun _ => rfl) (fun _ => rfl)

theorem transparent_withMemOrg (org : MemOrg) : Transparent (fun s => withMemOrg s org) :=
  transparent_update id id (fun p => { p with memOrg := org }) (fun _ => rfl) (fun _ => rfl) (fun _ => rfl)

section
variable {g : State → State} (hg : Transparent g) (s : State)
include hg

theorem Transparent.advance : (g s).advance = g s.advance := by rw [State.advance, hg.goto, hg.pc, State.advance]

theorem Transparent.setX (r : XReg) (v : Word) : (g s).setX r v = g (s.setX r v) := by
  rw [State.setX, hg.writeX, hg.advance, State.setX]

theorem Transparent.setF (r : FReg) (v : Word) : (g s).setF r v = g (s.setF r v) := by
  rw [State.setF, hg.writeF, hg.advance, State.setF]

theorem Transparent.effective (rs1 : XReg) (imm : BitVec 12) : (g s).effective rs1 imm = s.effective rs1 imm := by
  rw [State.effective, hg.readX, State.effective]

theorem Transparent.branchIf (cond : Word → Word → Bool) (rs1 rs2 : XReg) (off : BitVec 11) :
    branchIf cond rs1 rs2 off (g s) = onNext g (branchIf cond rs1 rs2 off s) := by
  simp only [Machine.branchIf, onNext, hg.readX, hg.pc, hg.goto, hg.advance]
  split <;> rfl

theorem Transparent.specBranchIf (m : String) (cond : Word → Word → Bool) (rs1 rs2 : XReg) (off : BitVec 11) :
    specBranchIf m cond rs1 rs2 off (g s) = onNext g (specBranchIf m cond rs1 rs2 off s) := by
  unfold Machine.specBranchIf
  rw [hg.instrSet]
  cases s.params.instrSet
  · rfl
  · exact hg.branchIf s cond rs1 rs2 off

/-- An instruction that accesses no memory does the same whatever a transparent change has changed. -/
theorem Transparent.exec {i : Instr} (hi : AccessesMemory i = false) : exec i (g s) = onNext g (exec i s) := by
  cases i with
  | lw | flw | sw | fsw => exact Bool.noConfusion hi
  | lb | lh | lbu | lhu | sb | sh => rfl
  | lui | auipc => simp only [Machine.exec, execLui, execAuipc, onNext, hg.setX, hg.pc]
  | jal | jalr => simp only [Machine.exec, execJal, execJalr, onNext, hg.writeX, hg.goto, hg.pc, hg.readX]
  | beq | blt => exact hg.branchIf s ..
  | bne | bge | bltu | bgeu => exact hg.specBranchIf s ..
  | addi | slti | sltiu | xori | ori | andi =>
    simp only [Machine.exec, execAddi, execSlti, execSltiu, execXori, execOri, execAndi, opImm, onNext, hg.setX, hg.readX]
  | slli | srli | srai => simp only [Machine.exec, execSlli, execSrli, execSrai, opShamt, onNext, hg.setX, hg.readX]
  | add | sub | sll | slt | sltu | xor | srl | sra | or | and =>
    simp only [Machine.exec, execAdd, execSub, execSll, execSlt, execSltu, execXor, execSrl, execSra, execOr, execAnd,
      opReg, onNext, hg.setX, hg.readX]
  | fadd | fsub | fmul | fdiv =>
    simp only [Machine.exec, execFadd, execFsub, execFmul, execFdiv, fpBinary, onNext, hg.setF, hg.readF, hg.numerics]
  | fsqrt | fmvff | fneg | fabs =>
    simp only [Machine.exec, execFsqrt, execFmvff, execFneg, execFabs, fpUnary, onNext, hg.setF, hg.readF, hg.numerics]
  | ftoi | floor | ftox =>
    simp only [Machine.exec, execFtoi, execFloor, execFtox, fpToInt, onNext, hg.setX, hg.readF, hg.ftoiTie]
  | fle | flt | feq =>
    simp only [Machine.exec, execFle, execFlt, execFeq, fpCompare, onNext, hg.setX, hg.readF, hg.numerics]
  | itof | xtof => simp only [Machine.exec, execItof, execXtof, intToFp, onNext, hg.setF, hg.readX, hg.numerics]
  | ob => simp only [Machine.exec, execOb, onNext, hg.out, hg.advance, hg.readX]
  | ib =>
    simp only [Machine.exec, execIb, hg.input]
    cases s.input with
    | nil => rfl
    | cons b rest => simp only [onNext, hg.setInput, hg.setX]

/-- A load that finds in the changed state what it finds in the state. -/
theorem Transparent.loadInto {write : State → Word → State} {rs1 : XReg} {imm : BitVec 12}
    (hwrite : ∀ v, write (g s) v = g (write s v))
    (hload : (g s).load (s.effective rs1 imm) = s.load (s.effective rs1 imm)) :
    loadInto write rs1 imm (g s) = onNext g (loadInto write rs1 imm s) := by
  simp only [Machine.loadInto, hg.effective, hload]
  cases s.load (s.effective rs1 imm) with
  | value v => exact congrArg _ (hwrite v)
  | bad | unwritten => rfl

/-- A store that has a meaning in the changed state where it has one in the state. -/
theorem Transparent.storeFrom {g' : State → State} {value : Word} {rs1 : XReg} {imm : BitVec 12}
    (hs : (g s).storable (s.effective rs1 imm) = s.storable (s.effective rs1 imm))
    (hw : ((g s).writeData (s.effective rs1 imm) value).advance =
      g' (s.writeData (s.effective rs1 imm) value).advance) :
    storeFrom value rs1 imm (g s) = onNext g' (storeFrom value rs1 imm s) := by
  simp only [Machine.storeFrom, hg.effective, hs, hw]
  split <;> rfl

/-- Every instruction does the same in the changed state where the loads find and the stores may do the same. -/
theorem Transparent.exec_of_memory (hload : ∀ a, (g s).load a = s.load a) (hs : ∀ a, (g s).storable a = s.storable a)
    (hw : ∀ a v, (g s).writeData a v = g (s.writeData a v)) (i : Instr) :
    Machine.exec i (g s) = onNext g (Machine.exec i s) := by
  have hstore (a v : Word) : ((g s).writeData a v).advance = g (s.writeData a v).advance := by rw [hw, hg.advance]
  cases i with
  | lw rd => exact hg.loadInto s (write := fun s v => s.setX rd v) (hg.setX s rd) (hload _)
  | flw rd => exact hg.loadInto s (write := fun s v => s.setF rd v) (hg.setF s rd) (hload _)
  | sw rs2 =>
    simp only [exec_sw, execSw, hg.readX]
    exact hg.storeFrom s (hs _) (hstore ..)
  | fsw rs2 =>
    simp only [exec_fsw, execFsw, hg.readF]
    exact hg.storeFrom s (hs _) (hstore ..)
  | _ => exact hg.exec s rfl

end

/-! ### Data memory -/

variable {i : Instr} {s t : State}

/-- An instruction that does not load does the same whatever data memory holds; a store leaves its word there too. -/
theorem exec_dmem (hi : ReadsMemory i = false) (s : State) (m : Memory) :
    ∃ m' : Memory, exec i { s with dmem := m } = onNext (fun t => { t with dmem := m' }) (exec i s) := by
  cases i with
  | lw | flw => exact Bool.noConfusion hi
  | sw rs2 rs1 imm =>
    exact ⟨m.writeWord (s.effective rs1 imm) (s.readX rs2), (transparent_dmem m).storeFrom s rfl rfl⟩
  | fsw rs2 rs1 imm =>
    exact ⟨m.writeWord (s.effective rs1 imm) (s.readF rs2), (transparent_dmem m).storeFrom s rfl rfl⟩
  | _ => exact ⟨m, (transparent_dmem m).exec s rfl⟩

/-- Only a store changes data memory. -/
theorem stores_of_dmem_ne (h : exec i s = .next t) (hne : t.dmem ≠ s.dmem) :
    (∃ rs2 rs1 imm, i = .sw rs2 rs1 imm) ∨ ∃ rs2 rs1 imm, i = .fsw rs2 rs1 imm := by
  cases effect_of_exec h with
  | stores hi =>
    cases i with
    | sw rs2 rs1 imm => exact .inl ⟨rs2, rs1, imm, rfl⟩
    | fsw rs2 rs1 imm => exact .inr ⟨rs2, rs1, imm, rfl⟩
    | _ => exact Bool.noConfusion hi
  | _ => exact absurd (by simp) hne

/-! ### Instruction memory under MEM_ORG separate (R45) -/

theorem load_of_separate (hm : s.params.memOrg = .separate) (a : Word) :
    s.load a = if s.params.dmemWords ≤ a.toNat then .bad else loadFrom s.dmem a := by
  simp only [State.load, hm]
  split
  · rfl
  · split <;> rfl

theorem storable_of_separate (hm : s.params.memOrg = .separate) (a : Word) :
    s.storable a = decide (a.toNat < s.params.dmemWords) := by
  simp [State.storable, hm]

/-- Under separate no instruction depends on the program. -/
theorem exec_imem (hm : s.params.memOrg = .separate) (i : Instr) (m : Memory) :
    exec i { s with imem := m } = onNext (fun t => { t with imem := m }) (exec i s) := by
  refine (transparent_imem m).exec_of_memory s (fun a => ?_) (fun a => ?_) (fun _ _ => rfl) i
  · rw [load_of_separate hm, load_of_separate (s := { s with imem := m }) hm]
  · rw [storable_of_separate hm, storable_of_separate (s := { s with imem := m }) hm]

/-! ### The guard (R45, D2) -/

section
variable (hm : s.params.memOrg = .unfixed)
include hm

/-- A load that the guard lets pass finds its word under either organisation. -/
theorem load_withMemOrg {a v : Word} (org : MemOrg) (h : s.load a = .value v) : (withMemOrg s org).load a = .value v := by
  obtain ⟨⟨hw, hguard⟩, hv⟩ := (load_value_iff s a v).mp h
  have hout : s.inProgram a = false := Bool.eq_false_iff.mpr fun hp => hguard ⟨hp, hm⟩
  have hdata : s.dmem.readWord a = some v := by rwa [(loadable_of_outside hw (.inl hout)).2] at hv
  obtain ⟨hl', hmem'⟩ := loadable_of_outside (s := withMemOrg s org) hw (.inl hout)
  exact (load_value_iff _ a v).mpr ⟨hl', hmem' ▸ hdata⟩

theorem storable_withMemOrg {a : Word} (org : MemOrg) (h : s.storable a = true) : (withMemOrg s org).storable a = true := by
  obtain ⟨hw, hout⟩ := (storable_iff s a).mp h
  exact (storable_iff _ a).mpr ⟨hw, .inr (hout.resolve_left (by simp [hm]))⟩

/-- An instruction that completes under the guard completes alike under either organisation. -/
theorem exec_withMemOrg (org : MemOrg) (h : exec i s = .next t) : exec i (withMemOrg s org) = .next (withMemOrg t org) := by
  have hg := transparent_withMemOrg org
  suffices hsame : exec i (withMemOrg s org) = onNext (fun s => withMemOrg s org) (exec i s) by rw [hsame, h]; rfl
  cases i with
  | lw rd rs1 imm =>
    obtain ⟨v, hv, -⟩ := loadInto_next.mp ((exec_lw s rd rs1 imm).symm.trans h)
    exact hg.loadInto s (write := fun s v => s.setX rd v) (hg.setX s rd) ((load_withMemOrg hm org hv).trans hv.symm)
  | flw rd rs1 imm =>
    obtain ⟨v, hv, -⟩ := loadInto_next.mp ((exec_flw s rd rs1 imm).symm.trans h)
    exact hg.loadInto s (write := fun s v => s.setF rd v) (hg.setF s rd) ((load_withMemOrg hm org hv).trans hv.symm)
  | sw rs2 rs1 imm =>
    obtain ⟨hs, -⟩ := storeFrom_next.mp ((exec_sw s rs2 rs1 imm).symm.trans h)
    exact hg.storeFrom s ((storable_withMemOrg hm org hs).trans hs.symm) rfl
  | fsw rs2 rs1 imm =>
    obtain ⟨hs, -⟩ := storeFrom_next.mp ((exec_fsw s rs2 rs1 imm).symm.trans h)
    exact hg.storeFrom s ((storable_withMemOrg hm org hs).trans hs.symm) rfl
  | _ => exact hg.exec s rfl

/-- What is fetched under the guard is a word of the program, which either organisation fetches. -/
theorem fetch_withMemOrg {w : Word} (org : MemOrg) (h : s.fetch = .ok w) : (withMemOrg s org).fetch = .ok w := by
  obtain ⟨hpc, hw⟩ := (fetch_ok_iff s w).mp h
  have himem : s.imem.readWord s.pc = some w := by simpa [instructionAt_some_iff, hm] using hw
  exact fetch_of_imem hpc himem

theorem step_withMemOrg (org : MemOrg) (h : step s = .next t) : step (withMemOrg s org) = .next (withMemOrg t org) := by
  obtain ⟨w, i, hf, hd, he⟩ := step_next.mp h
  exact step_next.mpr ⟨w, i, fetch_withMemOrg hm org hf, hd, exec_withMemOrg hm org he⟩

/-! ### The end of a run under either organisation -/

/-- Where there is an instruction word under the guard, the end of the run is judged alike. -/
theorem ends_withMemOrg {w : Word} (org : MemOrg) (hf : s.fetch = .ok w) (halt : Halt) :
    halt.ends (withMemOrg s org) = halt.ends s := by
  cases halt with
  | selfLoop => simp only [Halt.ends, fetches, hf, fetch_withMemOrg hm org hf]
  | stepBudget | endAddress => rfl

theorem waits_withMemOrg {w : Word} (org : MemOrg) (hf : s.fetch = .ok w) : (withMemOrg s org).waits = s.waits := by
  simp only [State.waits, hf, fetch_withMemOrg hm org hf]
  rfl

theorem ends_withMemOrg_of_ends (org : MemOrg) {halt : Halt} (h : halt.ends s = true) :
    halt.ends (withMemOrg s org) = true := by
  cases halt with
  | stepBudget => exact h
  | endAddress a => exact h
  | selfLoop =>
    cases hf : s.fetch with
    | ok w => rwa [ends_withMemOrg hm org hf]
    | error r => simp [Halt.ends, fetches, hf] at h

/-- Only a data word outside the program, under unified, can end a run that the guard does not end. -/
theorem unified_of_ends_withMemOrg {org : MemOrg} {halt : Halt} (h : halt.ends s = false)
    (h' : halt.ends (withMemOrg s org) = true) : org = .unified ∧ s.inProgram s.pc = false := by
  cases hf : s.fetch with
  | ok w =>
    rw [ends_withMemOrg hm org hf, h] at h'
    exact Bool.noConfusion h'
  | error r =>
    cases halt with
    | stepBudget => exact Bool.noConfusion h'
    | endAddress a => exact Bool.noConfusion (h.symm.trans h')
    | selfLoop =>
      cases hf' : (withMemOrg s org).fetch with
      | error r' => simp [Halt.ends, fetches, hf'] at h'
      | ok w =>
        obtain ⟨hpc, hw⟩ := (fetch_ok_iff _ w).mp hf'
        rcases (instructionAt_some_iff _ _ w).mp hw with himem | ⟨hnone, horg, -, -⟩
        · exact nomatch hf.symm.trans (fetch_of_imem hpc himem)
        · refine ⟨horg, ?_⟩
          have hnone' : s.imem.readWord s.pc = none := hnone
          rw [State.inProgram, Memory.holds, hnone']
          rfl

end

/-- A run under the guard that ends in no outcome, followed step by step under another organisation. -/
theorem runFrom_withMemOrg (halt : Halt) (org : MemOrg) (budget : Nat) :
    ∀ (s : State) (done : Nat), s.params.memOrg = .unfixed → EndsInOutcome (runFrom halt s budget done) = false →
      runFrom halt (withMemOrg s org) budget done = endWithMemOrg (runFrom halt s budget done) org ∨
        org = .unified ∧ ∃ u, runFrom halt s budget done = .exhausted u ∧ u.inProgram u.pc = false ∧
          runFrom halt (withMemOrg s org) budget done = .halted (done + budget) (withMemOrg u org) := by
  induction budget with
  | zero =>
    intro s done hm _
    cases hends : halt.ends s with
    | true => simp [runFrom, hends, ends_withMemOrg_of_ends hm org hends, endWithMemOrg]
    | false =>
      cases hends' : halt.ends (withMemOrg s org) with
      | false => simp [runFrom, hends, hends', endWithMemOrg]
      | true =>
        obtain ⟨horg, hout⟩ := unified_of_ends_withMemOrg hm hends hends'
        exact .inr ⟨horg, s, by simp [runFrom, hends], hout, by simp [runFrom, hends']⟩
  | succ budget ih =>
    intro s done hm hend
    cases hends : halt.ends s with
    | true => simp [runFrom, hends, ends_withMemOrg_of_ends hm org hends, endWithMemOrg]
    | false =>
      cases hf : s.fetch with
      | error r => simp [runFrom, hends, State.waits, step, hf, EndsInOutcome] at hend
      | ok w =>
        have hends' := (ends_withMemOrg hm org hf halt).trans hends
        have hwaits' := waits_withMemOrg hm org hf
        cases hwaits : s.waits with
        | true => simp [runFrom, hends, hends', hwaits', hwaits, endWithMemOrg]
        | false =>
          cases hstep : step s with
          | fault r => simp [runFrom, hends, hwaits, hstep, EndsInOutcome] at hend
          | refused r => simp [runFrom, hends, hwaits, hstep, EndsInOutcome] at hend
          | next t =>
            have hrun : runFrom halt s (budget + 1) done = runFrom halt t budget (done + 1) := by
              simp [runFrom, hends, hwaits, hstep]
            have hrun' : runFrom halt (withMemOrg s org) (budget + 1) done =
                runFrom halt (withMemOrg t org) budget (done + 1) := by
              simp [runFrom, hends', hwaits', hwaits, step_withMemOrg hm org hstep]
            rw [hrun] at hend ⊢
            rw [hrun', show done + (budget + 1) = done + 1 + budget by omega]
            exact ih t (done + 1) (by rw [(program_of_step hstep).2, hm]) hend

end Sys2Proof.Proofs.Dependence

namespace Sys2Proof.Proofs

open Sys2Proof.Machine Sys2Proof.Claims Sys2Proof.Proofs.LoadStore Sys2Proof.Proofs.Dependence

/-- Settles O56: a change of either memory is transparent to every instruction that accesses none, and the four accesses
follow the laws of load and store. -/
theorem onlyStoresChangeDataMemory : Obligations.OnlyStoresChangeDataMemory := by
  intro i s
  refine ⟨fun t => stores_of_dmem_ne, fun hi m => exec_dmem hi s m, fun hm => ⟨exec_imem hm i, ?_⟩⟩
  intro rd rs1 rs2 fd fs2 imm v a hw
  refine ⟨fun hv => ?_, stores_of_storable rfl ((storable_iff s a).mpr ⟨hw, .inl hm⟩) rs2 fs2⟩
  obtain ⟨hl, hmem⟩ := loadable_of_outside hw (.inr hm)
  exact loads_of_load_value rfl ((load_value_iff s a v).mpr ⟨hl, hmem ▸ hv⟩) rd fd

/-- Settles O59, by induction on the budget. -/
theorem guardedRunIsARunUnderEitherOrganisation : Obligations.GuardedRunIsARunUnderEitherOrganisation :=
  fun halt s budget done org hm hend => runFrom_withMemOrg halt org budget s done hm hend

end Sys2Proof.Proofs
end

section
/-! PROOFS. The value of a bit pattern (46_fp_compute.md R189): the magnitude as a function of the low 31 bits, in units of
the least subnormal, and the five kinds of pattern. -/

namespace Sys2Proof.Proofs.FloatValue

open Sys2Proof.Machine Sys2Proof.Claims

/-! ### Magnitudes, by the number of their pattern -/

/-- The magnitude of the pattern with low 31 bits `n`, in units of 2^-149; for every number `n`. -/
def magnitudeOf (n : Nat) : Nat := (if n / 2 ^ 23 = 0 then n % 2 ^ 23 else 2 ^ 23 + n % 2 ^ 23) * 2 ^ (n / 2 ^ 23 - 1)

/-- Every pattern is a significand `q` at a place `k`; a significand below 2^23 only at the lowest place. -/
theorem exists_significand (n : Nat) : ∃ k q, n = k * 2 ^ 23 + q ∧ q < 2 ^ 24 ∧ (k = 0 ∨ 2 ^ 23 ≤ q) := by
  by_cases h : n < 2 ^ 23
  · exact ⟨0, n, by omega, by omega, .inl rfl⟩
  · exact ⟨n / 2 ^ 23 - 1, 2 ^ 23 + n % 2 ^ 23, by omega, by omega, .inr (by omega)⟩

/-- The significand 2^24 is the least one at the next place. -/
theorem magnitudeOf_add {k q : Nat} (hq : q ≤ 2 ^ 24) (h : k = 0 ∨ 2 ^ 23 ≤ q) :
    magnitudeOf (k * 2 ^ 23 + q) = q * 2 ^ k := by
  unfold magnitudeOf
  rcases Nat.lt_or_ge q (2 ^ 23) with hlt | hge
  · obtain rfl : k = 0 := h.resolve_right (by omega)
    rw [if_pos (by omega), show (0 * 2 ^ 23 + q) / 2 ^ 23 - 1 = 0 by omega]
    congr 1
    omega
  · rcases Nat.lt_or_ge q (2 ^ 24) with hlt | hge'
    · rw [if_neg (by omega), show (k * 2 ^ 23 + q) / 2 ^ 23 - 1 = k by omega]
      congr 1
      omega
    · obtain rfl : q = 2 ^ 24 := by omega
      rw [if_neg (by omega), show (k * 2 ^ 23 + 2 ^ 24) / 2 ^ 23 - 1 = k + 1 by omega,
        show 2 ^ 23 + (k * 2 ^ 23 + 2 ^ 24) % 2 ^ 23 = 2 ^ 23 by omega, Nat.pow_succ 2 k]
      omega

theorem magnitudeOf_strictMono : StrictMono magnitudeOf := by
  refine strictMono_nat_of_lt_succ fun n => ?_
  obtain ⟨k, q, rfl, hq, h⟩ := exists_significand n
  rw [magnitudeOf_add (by omega) h, Nat.add_assoc, magnitudeOf_add (by omega) (h.imp_right (by omega))]
  exact Nat.mul_lt_mul_of_pos_right (Nat.lt_succ_self q) (Nat.two_pow_pos k)

/-- A magnitude below the least normal significand at place `k`, or a multiple of that place. -/
theorem magnitudeOf_lt_or_dvd (k n : Nat) : magnitudeOf n < 2 ^ 23 * 2 ^ k ∨ 2 ^ k ∣ magnitudeOf n := by
  obtain ⟨k', q, rfl, hq, h⟩ := exists_significand n
  rw [magnitudeOf_add (by omega) h]
  rcases Nat.lt_or_ge k' k with hlt | hge
  · left
    calc q * 2 ^ k' < 2 ^ 24 * 2 ^ k' := Nat.mul_lt_mul_of_pos_right hq (Nat.two_pow_pos k')
      _ = 2 ^ 23 * 2 ^ (k' + 1) := by rw [Nat.pow_succ 2 k']; omega
      _ ≤ 2 ^ 23 * 2 ^ k := Nat.mul_le_mul_left _ (Nat.pow_le_pow_right (by omega) hlt)
  · exact .inr ((pow_dvd_pow 2 hge).mul_left q)

@[simp] theorem magnitudeOf_zero : magnitudeOf 0 = 0 := rfl

/-- The magnitude that the pattern of infinity counts as, and the greatest one below. -/
theorem magnitudeOf_infinity : magnitudeOf 0x7F800000 = 2 ^ 24 * 2 ^ 253 :=
  magnitudeOf_add (k := 253) (q := 2 ^ 24) (by norm_num) (by norm_num)

theorem magnitudeOf_greatest : magnitudeOf 0x7F7FFFFF = (2 ^ 24 - 1) * 2 ^ 253 :=
  magnitudeOf_add (k := 253) (q := 2 ^ 24 - 1) (by norm_num) (by norm_num)

/-! ### A pattern is its sign and its low 31 bits -/

/-- The low 31 bits. -/
def lowBits (b : Word) : Nat := b.toNat % 2 ^ 31

theorem fpSign_eq (b : Word) : fpSign b = decide (2 ^ 31 ≤ b.toNat) := by
  exact (BitVec.msb_eq_getLsbD_last b).symm.trans (BitVec.msb_eq_decide b)

theorem toNat_eq_sign_add_lowBits (b : Word) : b.toNat = (if fpSign b then 2 ^ 31 else 0) + lowBits b := by
  have hb := b.isLt
  rw [fpSign_eq, lowBits]
  by_cases h : 2 ^ 31 ≤ b.toNat
  · rw [if_pos (decide_eq_true h)]
    omega
  · rw [if_neg (by simpa using h)]
    omega

theorem eq_of_sign_of_lowBits {a b : Word} (hs : fpSign a = fpSign b) (hl : lowBits a = lowBits b) : a = b :=
  BitVec.eq_of_toNat_eq (by rw [toNat_eq_sign_add_lowBits a, toNat_eq_sign_add_lowBits b, hs, hl])

theorem expField_eq (b : Word) : expField b = lowBits b / 2 ^ 23 := by
  rw [expField, toNat_slice, lowBits]
  omega

theorem fracField_eq (b : Word) : fracField b = lowBits b % 2 ^ 23 := by
  rw [fracField, toNat_slice, lowBits]
  omega

theorem lowBits_lt (b : Word) : lowBits b < 2 ^ 31 := Nat.mod_lt _ (by norm_num)

/-- The patterns that have a value are the ones below the pattern of infinity (R189). -/
theorem hasVal_iff (b : Word) : HasVal b ↔ lowBits b < 0x7F800000 := by
  have hb := lowBits_lt b
  rw [HasVal, expField_eq]
  omega

theorem fpMagnitude_eq (b : Word) : fpMagnitude b = magnitudeOf (lowBits b) := by
  have he : fpExp b = lowBits b / 2 ^ 23 := expField_eq b
  have hf : fpFrac b = lowBits b % 2 ^ 23 := fracField_eq b
  rw [fpMagnitude, fpMant, fpPlace, he, hf, magnitudeOf]

/-! ### Values -/

/-- The sign of a value. -/
def signOf (sign : Bool) : ℤ := if sign then -1 else 1

theorem fpScaled_eq (b : Word) : fpScaled b = signOf (fpSign b) * magnitudeOf (lowBits b) := by
  rw [fpScaled, fpMagnitude_eq, signOf]
  cases fpSign b <;> simp

/-- The value of a pattern counts units of 2^-149 (R189). -/
theorem val_eq_fpScaled (b : Word) : val b = fpScaled b * (2 : ℚ) ^ (-149 : ℤ) := by
  have hmag : (if expField b = 0 then (fracField b : ℚ) * (2 : ℚ) ^ (-149 : ℤ)
      else ((2 ^ 23 + fracField b : ℕ) : ℚ) * (2 : ℚ) ^ ((expField b : ℤ) - 150)) =
      (fpMagnitude b : ℚ) * (2 : ℚ) ^ (-149 : ℤ) := by
    have hexp : fpExp b = expField b := rfl
    have hfrac : fpFrac b = fracField b := rfl
    rw [fpMagnitude, fpMant, fpPlace, hexp, hfrac]
    by_cases h : expField b = 0
    · simp [h]
    · rw [if_neg h, if_neg h, Nat.cast_mul, mul_assoc, Nat.cast_pow, Nat.cast_ofNat, ← zpow_natCast,
        ← zpow_add₀ (by norm_num)]
      congr 2
      omega
  have hsign : b.getLsbD 31 = fpSign b := rfl
  rw [val, hmag, hsign, fpScaled]
  cases fpSign b <;> simp

theorem unit_pos : (0 : ℚ) < (2 : ℚ) ^ (-149 : ℤ) := by positivity

theorem val_eq_iff (a b : Word) : val a = val b ↔ fpScaled a = fpScaled b := by
  rw [val_eq_fpScaled, val_eq_fpScaled, mul_left_inj' unit_pos.ne', Int.cast_inj]

theorem val_lt_iff (a b : Word) : val a < val b ↔ fpScaled a < fpScaled b := by
  rw [val_eq_fpScaled, val_eq_fpScaled, mul_lt_mul_iff_left₀ unit_pos, Int.cast_lt]

theorem val_le_iff (a b : Word) : val a ≤ val b ↔ fpScaled a ≤ fpScaled b := by
  rw [val_eq_fpScaled, val_eq_fpScaled, mul_le_mul_iff_left₀ unit_pos, Int.cast_le]

theorem magnitudeOf_eq_zero_iff {n : Nat} : magnitudeOf n = 0 ↔ n = 0 :=
  magnitudeOf_strictMono.injective.eq_iff' magnitudeOf_zero

theorem fpScaled_eq_zero_iff (b : Word) : fpScaled b = 0 ↔ lowBits b = 0 := by
  rw [fpScaled_eq, mul_eq_zero, Int.natCast_eq_zero, magnitudeOf_eq_zero_iff, signOf]
  cases fpSign b <;> simp

theorem val_eq_zero_iff (b : Word) : val b = 0 ↔ lowBits b = 0 := by
  rw [val_eq_fpScaled, mul_eq_zero, or_iff_left unit_pos.ne', Int.cast_eq_zero, fpScaled_eq_zero_iff]

theorem signOf_injective : ∀ s t : Bool, signOf s = signOf t → s = t := by decide

theorem natAbs_signOf_mul (s : Bool) (m : Nat) : (signOf s * m).natAbs = m := by cases s <;> simp [signOf]

/-- A value that is not zero has one pattern. -/
theorem eq_of_val_eq {a b : Word} (h : val a = val b) (h0 : val b ≠ 0) : a = b := by
  have hs := (val_eq_iff a b).mp h
  have h0' : fpScaled b ≠ 0 := fun hz => h0 ((val_eq_zero_iff b).mpr ((fpScaled_eq_zero_iff b).mp hz))
  rw [fpScaled_eq] at h0'
  rw [fpScaled_eq, fpScaled_eq] at hs
  have hmag : magnitudeOf (lowBits a) = magnitudeOf (lowBits b) := by
    have habs := congrArg Int.natAbs hs
    rwa [natAbs_signOf_mul, natAbs_signOf_mul] at habs
  rw [hmag] at hs
  exact eq_of_sign_of_lowBits (signOf_injective _ _ (mul_right_cancel₀ (right_ne_zero_of_mul h0') hs))
    (magnitudeOf_strictMono.injective hmag)

end Sys2Proof.Proofs.FloatValue
end

section
/-! PROOFS. Rounding to nearest, ties to even (46_fp_compute.md R190): from the nearest integer significand to the nearest
pattern, and from there to the word. -/

namespace Sys2Proof.Proofs.Rounding

open Sys2Proof.Machine Sys2Proof.Claims Sys2Proof.Proofs.FloatValue

/-! ### The nearest integer and the nearest magnitude -/

/-- `q` is the integer nearest to `y`, the even one of two. -/
def IsNearestInt (y : ℝ) (q : ℕ) : Prop := |(q : ℝ) - y| ≤ 1 / 2 ∧ (|(q : ℝ) - y| = 1 / 2 → q % 2 = 0)

/-- No magnitude is nearer to `x` than that of pattern `n`, which is even where another is as near. -/
def IsNearestPattern (x : ℝ) (n : ℕ) : Prop :=
  ∀ c : ℕ, |(magnitudeOf n : ℝ) - x| ≤ |(magnitudeOf c : ℝ) - x| ∧
    (|(magnitudeOf c : ℝ) - x| = |(magnitudeOf n : ℝ) - x| → c ≠ n → n % 2 = 0)

theorem IsNearestInt.le {y : ℝ} {q : ℕ} (h : IsNearestInt y q) (j : ℕ) :
    |(q : ℝ) - y| ≤ |(j : ℝ) - y| ∧ (|(j : ℝ) - y| = |(q : ℝ) - y| → j ≠ q → q % 2 = 0) := by
  by_cases hjq : j = q
  · subst hjq
    exact ⟨le_rfl, fun _ hne => absurd rfl hne⟩
  · obtain ⟨hhalf, heven⟩ := h
    have hdist : (1 : ℝ) ≤ |(j : ℝ) - q| := by
      have hint : (1 : ℤ) ≤ |(j : ℤ) - q| := Int.one_le_abs (by omega)
      exact_mod_cast hint
    have htri : |(j : ℝ) - q| ≤ |(j : ℝ) - y| + |(q : ℝ) - y| := by
      rw [abs_sub_comm (q : ℝ) y]
      exact abs_sub_le ..
    exact ⟨by linarith, fun heq _ => heven (by linarith)⟩

/-- The pattern of the nearest significand at place `k` is the nearest pattern: below the least normal significand of the
place there is nothing nearer, and above it every magnitude is a multiple of the place. -/
theorem IsNearestInt.isNearestPattern {k q : ℕ} {y : ℝ} (h : IsNearestInt y q) (hlow : k = 0 ∨ 2 ^ 23 ≤ y)
    (hhigh : y ≤ 2 ^ 24) : IsNearestPattern (y * 2 ^ k) (k * 2 ^ 23 + q) := by
  have hclose := abs_le.mp h.1
  have hq : q ≤ 2 ^ 24 := by
    have hlt : (q : ℝ) < ((2 ^ 24 + 1 : ℕ) : ℝ) := by push_cast; linarith [hclose.2]
    exact Nat.lt_succ_iff.mp (Nat.cast_lt.mp hlt)
  have hq' : k = 0 ∨ 2 ^ 23 ≤ q := by
    refine hlow.imp_right fun hy => ?_
    have hlt : ((2 ^ 23 : ℕ) : ℝ) < ((q + 1 : ℕ) : ℝ) := by push_cast; linarith [hclose.1]
    exact Nat.lt_succ_iff.mp (Nat.cast_lt.mp hlt)
  have hpow : (0 : ℝ) < 2 ^ k := by positivity
  have hscale (j : ℝ) : |j * 2 ^ k - y * 2 ^ k| = |j - y| * 2 ^ k := by rw [← sub_mul, abs_mul, abs_of_pos hpow]
  have hn : (magnitudeOf (k * 2 ^ 23 + q) : ℝ) = q * 2 ^ k := by rw [magnitudeOf_add hq hq']; push_cast; rfl
  intro c
  rw [hn, hscale]
  by_cases hdvd : 2 ^ k ∣ magnitudeOf c
  · obtain ⟨j, hj⟩ := hdvd
    have hc : (magnitudeOf c : ℝ) = j * 2 ^ k := by rw [hj]; push_cast; ring
    obtain ⟨hle, heven⟩ := h.le j
    rw [hc, hscale]
    refine ⟨mul_le_mul_of_nonneg_right hle hpow.le, fun heq hne => ?_⟩
    have hjq : j ≠ q := by
      rintro rfl
      exact hne (magnitudeOf_strictMono.injective (by rw [hj, magnitudeOf_add hq hq', mul_comm]))
    have hqeven := heven (mul_right_cancel₀ hpow.ne' heq) hjq
    omega

  · have hlt : (magnitudeOf c : ℝ) < 2 ^ 23 * 2 ^ k := by
      exact_mod_cast (magnitudeOf_lt_or_dvd k c).resolve_right hdvd
    have hy : 2 ^ 23 ≤ y := hlow.resolve_left fun hk => hdvd (hk ▸ one_dvd _)
    have hle := (h.le (2 ^ 23)).1
    rw [abs_of_nonpos (a := ((2 ^ 23 : ℕ) : ℝ) - y) (by push_cast; linarith)] at hle
    have hfar : |(q : ℝ) - y| * 2 ^ k < |(magnitudeOf c : ℝ) - y * 2 ^ k| := by
      calc |(q : ℝ) - y| * 2 ^ k ≤ (y - 2 ^ 23) * 2 ^ k :=
            mul_le_mul_of_nonneg_right (by push_cast at hle; linarith) hpow.le
        _ < y * 2 ^ k - magnitudeOf c := by rw [sub_mul]; linarith
        _ ≤ |(magnitudeOf c : ℝ) - y * 2 ^ k| := by rw [abs_sub_comm]; exact le_abs_self _
    exact ⟨hfar.le, fun heq => absurd heq hfar.ne'⟩

/-! ### The bound from which a magnitude rounds to infinity -/

/-- Half a last place above the greatest number, in units of 2^-149. -/
noncomputable def overflowBound : ℝ := (2 ^ 24 - 1 / 2) * 2 ^ 253

theorem overflowBound_eq : (2 : ℝ) ^ 128 - 2 ^ 103 = overflowBound * (2 : ℝ) ^ (-149 : ℤ) := by
  have hpow : (2 : ℝ) ^ 253 * (2 : ℝ) ^ (-149 : ℤ) = 2 ^ 104 := by
    rw [← zpow_natCast, ← zpow_add₀ (by norm_num)]
    norm_num
  rw [overflowBound, mul_assoc, hpow]
  norm_num

theorem magnitudeOf_greatest_real : (magnitudeOf 0x7F7FFFFF : ℝ) = (2 ^ 24 - 1) * 2 ^ 253 := by
  rw [magnitudeOf_greatest]
  norm_num

theorem magnitudeOf_infinity_real : (magnitudeOf 0x7F800000 : ℝ) = 2 ^ 24 * 2 ^ 253 := by
  rw [magnitudeOf_infinity]
  norm_num

theorem magnitudeOf_le_greatest {n : ℕ} (h : n < 0x7F800000) : (magnitudeOf n : ℝ) ≤ (2 ^ 24 - 1) * 2 ^ 253 := by
  rw [← magnitudeOf_greatest_real, Nat.cast_le]
  exact magnitudeOf_strictMono.monotone (by omega)

theorem infinity_le_magnitudeOf {n : ℕ} (h : 0x7F800000 ≤ n) : (2 ^ 24 * 2 ^ 253 : ℝ) ≤ magnitudeOf n := by
  rw [← magnitudeOf_infinity_real, Nat.cast_le]
  exact magnitudeOf_strictMono.monotone h

variable {x : ℝ} {n : ℕ}

/-- Below the bound the greatest number is nearer than the magnitude that infinity counts as. -/
theorem IsNearestPattern.lt_infinity (h : IsNearestPattern x n) (hx : x < overflowBound) : n < 0x7F800000 := by
  by_contra hn
  have hinf := infinity_le_magnitudeOf (Nat.le_of_not_lt hn)
  have hle := (h 0x7F7FFFFF).1
  have hpow : (0 : ℝ) < 2 ^ 253 := by positivity
  rw [overflowBound] at hx
  rw [magnitudeOf_greatest_real] at hle
  have hfar := le_abs_self ((magnitudeOf n : ℝ) - x)
  rcases abs_cases ((2 ^ 24 - 1) * 2 ^ 253 - x) with ⟨habs, -⟩ | ⟨habs, -⟩ <;> linarith

/-- From the bound on the magnitude that infinity counts as is nearer than the greatest number, or as near and even. -/
theorem IsNearestPattern.infinity_le (h : IsNearestPattern x n) (hx : overflowBound ≤ x) : 0x7F800000 ≤ n := by
  by_contra hn
  have hlt : n < 0x7F800000 := by omega
  have hg := magnitudeOf_le_greatest hlt
  obtain ⟨hle, htie⟩ := h 0x7F800000
  have hpow : (0 : ℝ) < 2 ^ 253 := by positivity
  rw [overflowBound] at hx
  rw [magnitudeOf_infinity_real] at hle htie
  have hn' : |(magnitudeOf n : ℝ) - x| = x - magnitudeOf n := by
    rw [abs_sub_comm]
    exact abs_of_nonneg (by linarith)
  rw [hn'] at hle htie
  rcases abs_cases (2 ^ 24 * 2 ^ 253 - x) with ⟨habs, -⟩ | ⟨habs, -⟩
  · have hmag : (magnitudeOf n : ℝ) = magnitudeOf 0x7F7FFFFF := by
      rw [magnitudeOf_greatest_real]
      linarith
    have hodd : n = 0x7F7FFFFF := magnitudeOf_strictMono.injective (Nat.cast_injective hmag)
    have heven := htie (by linarith) (by omega)
    omega
  · linarith

/-! ### The word of a sign and a pattern -/

/-- The word with a sign and a magnitude pattern, infinity where the pattern is past every number. -/
def packed (sign : Bool) (n : ℕ) : Word :=
  if 0x7F800000 ≤ n then Ieee.infinity sign else Ieee.zero sign ||| BitVec.ofNat 32 n

theorem packed_of_infinity_le (sign : Bool) (h : 0x7F800000 ≤ n) : packed sign n = infinityOf sign := if_pos h

theorem toNat_packed (sign : Bool) (h : n < 0x7F800000) :
    (packed sign n).toNat = (if sign then 2 ^ 31 else 0) + n := by
  rw [packed, if_neg (by omega), BitVec.toNat_or, BitVec.toNat_ofNat, Nat.mod_eq_of_lt (by omega)]
  cases sign
  · simp [Ieee.zero]
  · exact (Nat.two_pow_add_eq_or_of_lt (i := 31) (by omega) 1).symm

theorem fpSign_packed (sign : Bool) (n : ℕ) : fpSign (packed sign n) = sign := by
  rcases Nat.lt_or_ge n 0x7F800000 with h | h
  · rw [fpSign_eq, toNat_packed sign h]
    cases sign <;> simp
    omega
  · rw [packed_of_infinity_le sign h]
    cases sign <;> rfl

theorem lowBits_packed (sign : Bool) (h : n < 0x7F800000) : lowBits (packed sign n) = n := by
  rw [lowBits, toNat_packed sign h]
  cases sign <;> simp <;> omega

theorem getLsbD_zero_eq_false_iff (b : Word) : b.getLsbD 0 = false ↔ lowBits b % 2 = 0 := by
  rw [BitVec.getLsbD, Nat.testBit_zero, decide_eq_false_iff_not, lowBits]
  omega

/-! ### Rounding a real number -/

theorem unit_pos_real : (0 : ℝ) < (2 : ℝ) ^ (-149 : ℤ) := by positivity

theorem val_cast_real (b : Word) :
    (val b : ℝ) = signOf (fpSign b) * (magnitudeOf (lowBits b) * (2 : ℝ) ^ (-149 : ℤ)) := by
  rw [val_eq_fpScaled, fpScaled_eq]
  push_cast
  ring

theorem abs_signOf_mul (s : Bool) {y : ℝ} (h : 0 ≤ y) : |(signOf s : ℝ) * y| = y := by
  cases s <;> simp [signOf, abs_of_nonneg h]

theorem signOf_false_mul (y : ℝ) : (signOf false : ℝ) * y = y := by simp [signOf]

theorem signOf_true_mul (y : ℝ) : (signOf true : ℝ) * y = -y := by simp [signOf]

theorem signOf_not (s : Bool) : signOf (!s) = -signOf s := by cases s <;> rfl

/-- Against any word, whatever its sign, the magnitudes are no further apart than the values. -/
theorem abs_magnitude_sub_le (sign : Bool) (hx : 0 ≤ x) (c : Word) :
    |(magnitudeOf (lowBits c) : ℝ) - x| * (2 : ℝ) ^ (-149 : ℤ) ≤
      |(val c : ℝ) - signOf sign * (x * (2 : ℝ) ^ (-149 : ℤ))| := by
  have hunit := unit_pos_real
  have hval : |(val c : ℝ)| = magnitudeOf (lowBits c) * (2 : ℝ) ^ (-149 : ℤ) := by
    rw [val_cast_real, abs_signOf_mul _ (by positivity)]
  calc |(magnitudeOf (lowBits c) : ℝ) - x| * (2 : ℝ) ^ (-149 : ℤ)
      = abs (|(val c : ℝ)| - |(signOf sign : ℝ) * (x * (2 : ℝ) ^ (-149 : ℤ))|) := by
        rw [hval, abs_signOf_mul _ (by positivity), ← sub_mul, abs_mul, abs_of_pos hunit]
    _ ≤ _ := abs_abs_sub_abs_le _ _

/-- Against a word of the same sign they are as far apart. -/
theorem abs_val_sub_of_fpSign_eq {sign : Bool} {c : Word} (hc : fpSign c = sign) (x : ℝ) :
    |(val c : ℝ) - signOf sign * (x * (2 : ℝ) ^ (-149 : ℤ))| =
      |(magnitudeOf (lowBits c) : ℝ) - x| * (2 : ℝ) ^ (-149 : ℤ) := by
  rw [val_cast_real, hc, ← mul_sub, ← sub_mul, abs_mul, abs_mul, abs_of_pos unit_pos_real]
  cases sign <;> simp [signOf]

/-- A word with the nearest pattern that is as near as another has its value: with the other sign, both are zero. -/
theorem val_eq_of_lowBits_eq (h : IsNearestPattern x n) {c r : Word} (hc : lowBits c = n) (hr : lowBits r = n)
    (heq : |(val c : ℝ) - signOf (fpSign r) * (x * (2 : ℝ) ^ (-149 : ℤ))| =
      |(val r : ℝ) - signOf (fpSign r) * (x * (2 : ℝ) ^ (-149 : ℤ))|) : val c = val r := by
  by_cases hs : fpSign c = fpSign r
  · rw [eq_of_sign_of_lowBits hs (hc.trans hr.symm)]
  · have hneg : (val c : ℝ) = -val r := by
      rw [val_cast_real, val_cast_real, hc, hr, Bool.eq_not_of_ne hs, signOf_not]
      push_cast
      ring
    have hzero : (val r : ℝ) = 0 := by
      rw [hneg] at heq
      rcases abs_eq_abs.mp heq with hv | hx
      · linarith
      · have hprod : (signOf (fpSign r) : ℝ) * (x * (2 : ℝ) ^ (-149 : ℤ)) = 0 := by linarith
        have hx0 : x = 0 := by
          have hsq : |(signOf (fpSign r) : ℝ) * (x * (2 : ℝ) ^ (-149 : ℤ))| = |x * (2 : ℝ) ^ (-149 : ℤ)| := by
            rw [abs_mul]
            cases fpSign r <;> simp [signOf]
          rw [hprod, abs_zero, eq_comm, abs_eq_zero] at hsq
          exact (mul_eq_zero.mp hsq).resolve_right unit_pos_real.ne'
        have hle := (h 0).1
        rw [hx0, sub_zero, sub_zero, magnitudeOf_zero, Nat.cast_zero, abs_zero, abs_nonpos_iff] at hle
        rw [val_cast_real, hr, hle]
        ring
    rw [hzero, neg_zero, ← hzero] at hneg
    exact_mod_cast hneg

/-- The word of the nearest pattern is the number rounded to nearest, ties to even. -/
theorem IsNearestPattern.roundsTo (h : IsNearestPattern x n) (hx : 0 ≤ x) (sign : Bool) :
    RoundsTo (signOf sign * (x * (2 : ℝ) ^ (-149 : ℤ))) (packed sign n) := by
  have hunit := unit_pos_real
  have hsign : (packed sign n).getLsbD 31 = sign := fpSign_packed sign n
  refine ⟨fun hlt => ?near, fun hge => ?above, fun hle => ?below, fun hpos => ?pos, fun hneg => ?neg⟩
  case near =>
    rw [abs_signOf_mul _ (by positivity), overflowBound_eq] at hlt
    have hn := h.lt_infinity (lt_of_mul_lt_mul_right hlt hunit.le)
    have hlow := lowBits_packed sign hn
    refine ⟨(hasVal_iff _).mpr (by rw [hlow]; exact hn), fun c _ => ?_⟩
    have hfar := abs_magnitude_sub_le sign hx c
    have hr := abs_val_sub_of_fpSign_eq (fpSign_packed sign n) x
    rw [hlow] at hr
    obtain ⟨hle, heven⟩ := h (lowBits c)
    have hscaled := mul_le_mul_of_nonneg_right hle hunit.le
    refine ⟨by linarith, fun heq hne => ?_⟩
    rw [getLsbD_zero_eq_false_iff, hlow]
    by_cases hcn : lowBits c = n
    · refine absurd (val_eq_of_lowBits_eq h hcn hlow ?_) hne
      rwa [fpSign_packed]
    · refine heven (le_antisymm ?_ hle) hcn
      exact le_of_mul_le_mul_right (by linarith) hunit
  all_goals
    have hmag : (0 : ℝ) ≤ x * (2 : ℝ) ^ (-149 : ℤ) := by positivity
    have hbound : (0 : ℝ) < 2 ^ 128 - 2 ^ 103 := by norm_num
  case above =>
    cases sign with
    | false =>
      rw [overflowBound_eq, signOf_false_mul] at hge
      exact packed_of_infinity_le _ (h.infinity_le (le_of_mul_le_mul_right hge hunit))
    | true =>
      rw [signOf_true_mul] at hge
      linarith
  case below =>
    cases sign with
    | false =>
      rw [signOf_false_mul] at hle
      linarith
    | true =>
      rw [overflowBound_eq, signOf_true_mul, neg_le_neg_iff] at hle
      exact packed_of_infinity_le _ (h.infinity_le (le_of_mul_le_mul_right hle hunit))
  case pos =>
    cases sign with
    | false => exact hsign
    | true =>
      rw [signOf_true_mul] at hpos
      linarith
  case neg =>
    cases sign with
    | false =>
      rw [signOf_false_mul] at hneg
      linarith
    | true => exact hsign

/-- Zero is rounded to a zero. -/
theorem roundsTo_zero {r : Word} (h : lowBits r = 0) : RoundsTo 0 r := by
  have hval : val r = 0 := (val_eq_zero_iff r).mpr h
  have hbound : (0 : ℝ) < 2 ^ 128 - 2 ^ 103 := by norm_num
  refine ⟨fun _ => ⟨(hasVal_iff r).mpr (by omega), fun c _ => ?_⟩, fun hge => ?_, fun hle => ?_,
    fun h => absurd h (lt_irrefl 0), fun h => absurd h (lt_irrefl 0)⟩
  · rw [hval, Rat.cast_zero, sub_zero, sub_zero, abs_zero]
    refine ⟨abs_nonneg _, fun heq hne => absurd ?_ hne⟩
    exact_mod_cast abs_eq_zero.mp heq
  · linarith
  · linarith

/-- A number that is not zero is rounded to itself. -/
theorem eq_of_roundsTo_val {c r : Word} (hc : HasVal c) (h0 : val c ≠ 0) (h : RoundsTo (val c : ℝ) r) : r = c := by
  have hsmall : |(val c : ℝ)| < 2 ^ 128 - 2 ^ 103 := by
    rw [val_cast_real, abs_signOf_mul _ (by positivity), overflowBound_eq]
    refine mul_lt_mul_of_pos_right (lt_of_le_of_lt (magnitudeOf_le_greatest ((hasVal_iff c).mp hc)) ?_) unit_pos_real
    rw [overflowBound]
    have hpow : (0 : ℝ) < 2 ^ 253 := by positivity
    linarith
  obtain ⟨-, hnear⟩ := h.1 hsmall
  have hle := (hnear c hc).1
  rw [sub_self, abs_zero, abs_nonpos_iff, sub_eq_zero] at hle
  exact eq_of_val_eq (by exact_mod_cast hle) h0

/-! ### The rounding of the model (R190) -/

/-- `shiftRne` is the nearest integer to the quotient, the even one of two. -/
theorem shiftRne_spec (m s : ℕ) :
    2 * |(Ieee.shiftRne m s : ℤ) * 2 ^ s - m| ≤ 2 ^ s ∧
      (2 * |(Ieee.shiftRne m s : ℤ) * 2 ^ s - m| = 2 ^ s → Ieee.shiftRne m s % 2 = 0) := by
  have hm : ((m / 2 ^ s : ℕ) : ℤ) * 2 ^ s + ((m % 2 ^ s : ℕ) : ℤ) = m := by
    exact_mod_cast Nat.div_add_mod' m (2 ^ s)
  have hcast : (2 : ℤ) ^ s = ((2 ^ s : ℕ) : ℤ) := by push_cast; rfl
  have hr : m % 2 ^ s < 2 ^ s := Nat.mod_lt m (Nat.two_pow_pos s)
  unfold Ieee.shiftRne
  dsimp only
  rw [hcast] at hm ⊢
  generalize 2 ^ s = p at hm hr ⊢
  split
  · rcases abs_cases (((m / p : ℕ) : ℤ) * p - m) with ⟨habs, -⟩ | ⟨habs, -⟩ <;> omega
  · split
    · rw [Nat.cast_add, Nat.cast_one, add_mul, one_mul]
      rcases abs_cases (((m / p : ℕ) : ℤ) * p + p - m) with ⟨habs, -⟩ | ⟨habs, -⟩ <;> omega
    · split
      · rcases abs_cases (((m / p : ℕ) : ℤ) * p - m) with ⟨habs, -⟩ | ⟨habs, -⟩ <;> omega
      · rw [Nat.cast_add, Nat.cast_one, add_mul, one_mul]
        rcases abs_cases (((m / p : ℕ) : ℤ) * p + p - m) with ⟨habs, -⟩ | ⟨habs, -⟩ <;> omega

/-- The place of the last bit of the rounded significand: 23 below the leading bit and not below -149. -/
def lastPlace (m : ℕ) (e : ℤ) : ℤ := max ((Nat.log2 m : ℤ) + e - 23) (-149)

/-- The rounded significand. -/
def significand (m : ℕ) (e : ℤ) : ℕ :=
  if lastPlace m e ≤ e then m * 2 ^ (e - lastPlace m e).toNat else Ieee.shiftRne m (lastPlace m e - e).toNat

theorem round_eq_packed (sign : Bool) {m : ℕ} (hm : m ≠ 0) (e : ℤ) :
    Ieee.round sign m e = packed sign ((lastPlace m e + 149).toNat * 2 ^ 23 + significand m e) := by
  rw [Ieee.round, if_neg hm]
  rfl

/-- The integer `m` stands for `t`: it is `t`, or it is odd and `t` lies strictly between its neighbours, where `m` has
more bits than a significand. -/
def StandsFor (m : ℕ) (t : ℝ) : Prop := t = m ∨ m % 2 = 1 ∧ 2 ^ 25 ≤ m ∧ |t - m| < 1

section
variable {m : ℕ} {t : ℝ}

/-- The quotient is rounded as if `m` were `t`: an odd `m` is no tie, and the distance to a multiple of four is odd. -/
theorem StandsFor.isNearestInt_shiftRne (h : StandsFor m t) {s : ℕ} (hs : 2 ^ 25 ≤ m → 2 ≤ s) :
    IsNearestInt (t / 2 ^ s) (Ieee.shiftRne m s) := by
  obtain ⟨hle, heven⟩ := shiftRne_spec m s
  have hpow : (0 : ℝ) < 2 ^ s := by positivity
  have hdist : |(Ieee.shiftRne m s : ℝ) - t / 2 ^ s| = |(Ieee.shiftRne m s : ℝ) * 2 ^ s - t| / 2 ^ s := by
    rw [eq_div_iff hpow.ne', ← abs_of_pos hpow, ← abs_mul, sub_mul, abs_of_pos hpow, div_mul_cancel₀ _ hpow.ne']
  rw [IsNearestInt, hdist, div_le_iff₀ hpow, div_eq_iff hpow.ne']
  rcases h with rfl | ⟨hodd, hbig, hclose⟩
  · have hleR : 2 * |(Ieee.shiftRne m s : ℝ) * 2 ^ s - m| ≤ 2 ^ s := by exact_mod_cast hle
    refine ⟨by linarith, fun heq => heven ?_⟩
    have heqR : 2 * |(Ieee.shiftRne m s : ℝ) * 2 ^ s - m| = 2 ^ s := by linarith
    exact_mod_cast heqR
  · obtain ⟨s', rfl⟩ := Nat.exists_eq_add_of_le (hs hbig)
    have hstrict : 2 * |(Ieee.shiftRne m (2 + s') : ℤ) * 2 ^ (2 + s') - m| + 2 ≤ 2 ^ (2 + s') := by
      rw [pow_add] at hle ⊢
      generalize (2 : ℤ) ^ s' = p at hle ⊢
      rw [show (Ieee.shiftRne m (2 + s') : ℤ) * (2 ^ 2 * p) = 4 * (Ieee.shiftRne m (2 + s') * p) by ring] at hle ⊢
      rcases abs_cases (4 * ((Ieee.shiftRne m (2 + s') : ℤ) * p) - m) with ⟨habs, -⟩ | ⟨habs, -⟩ <;> omega
    have hstrictR : 2 * |(Ieee.shiftRne m (2 + s') : ℝ) * 2 ^ (2 + s') - m| + 2 ≤ 2 ^ (2 + s') := by
      exact_mod_cast hstrict
    have htri := abs_sub_le ((Ieee.shiftRne m (2 + s') : ℝ) * 2 ^ (2 + s')) m t
    rw [abs_sub_comm (m : ℝ) t] at htri
    exact ⟨by linarith, fun heq => by linarith⟩

theorem StandsFor.bounds (h : StandsFor m t) (hm : m ≠ 0) : 2 ^ Nat.log2 m ≤ t ∧ t ≤ 2 ^ (Nat.log2 m + 1) := by
  have hlow := Nat.log2_self_le hm
  have hhigh : m < 2 ^ (Nat.log2 m + 1) := Nat.lt_log2_self
  rcases h with rfl | ⟨hodd, hbig, hclose⟩
  · exact ⟨by exact_mod_cast hlow, by exact_mod_cast hhigh.le⟩
  · have hlog : 25 ≤ Nat.log2 m := (Nat.le_log2 hm).mpr hbig
    have hlow' : 2 ^ Nat.log2 m + 1 ≤ m := by
      obtain ⟨j, hj⟩ := Nat.exists_eq_add_of_le' hlog
      rw [hj, show j + 25 = j + 24 + 1 from rfl, Nat.pow_succ] at hlow ⊢
      omega
    have hlowR : (2 : ℝ) ^ Nat.log2 m + 1 ≤ m := by exact_mod_cast hlow'
    have hhighR : (m : ℝ) + 1 ≤ 2 ^ (Nat.log2 m + 1) := by exact_mod_cast hhigh
    obtain ⟨h1, h2⟩ := abs_lt.mp hclose
    exact ⟨by linarith, by linarith⟩

theorem StandsFor.isNearestInt_significand (h : StandsFor m t) (hm : m ≠ 0) (e : ℤ) :
    IsNearestInt (t * (2 : ℝ) ^ (e - lastPlace m e)) (significand m e) := by
  have hplace : (Nat.log2 m : ℤ) + e - 23 ≤ lastPlace m e := le_max_left ..
  have hbits (hbig : 2 ^ 25 ≤ m) : 25 ≤ Nat.log2 m := (Nat.le_log2 hm).mpr hbig
  rw [significand]
  split
  · rename_i hle
    obtain ⟨j, hj⟩ := Int.eq_ofNat_of_zero_le (show 0 ≤ e - lastPlace m e by omega)
    have ht : t = m := h.resolve_right fun ⟨_, hbig, _⟩ => by have := hbits hbig; omega
    have hexact : (((m * 2 ^ j : ℕ) : ℝ) - m * (2 : ℝ) ^ (j : ℤ)) = 0 := by
      rw [zpow_natCast]
      push_cast
      ring
    rw [hj, Int.toNat_natCast, ht, IsNearestInt, hexact, abs_zero]
    norm_num
  · rename_i hlt
    obtain ⟨j, hj⟩ := Int.eq_ofNat_of_zero_le (show 0 ≤ lastPlace m e - e by omega)
    rw [hj, Int.toNat_natCast, ← neg_sub, hj, zpow_neg, zpow_natCast, ← div_eq_mul_inv]
    exact h.isNearestInt_shiftRne fun hbig => by have := hbits hbig; omega

/-- The model's rounding finds the nearest pattern. -/
theorem StandsFor.isNearestPattern (h : StandsFor m t) (hm : m ≠ 0) (e : ℤ) :
    IsNearestPattern (t * (2 : ℝ) ^ (e + 149)) ((lastPlace m e + 149).toNat * 2 ^ 23 + significand m e) := by
  obtain ⟨hlow, hhigh⟩ := h.bounds hm
  have hplace : lastPlace m e = (Nat.log2 m : ℤ) + e - 23 ∧ -149 ≤ (Nat.log2 m : ℤ) + e - 23 ∨
      lastPlace m e = -149 ∧ (Nat.log2 m : ℤ) + e - 23 ≤ -149 := by
    rw [lastPlace]
    omega
  have hscaled : t * (2 : ℝ) ^ (e + 149) = t * (2 : ℝ) ^ (e - lastPlace m e) * 2 ^ (lastPlace m e + 149).toNat := by
    rw [← zpow_natCast, Int.toNat_of_nonneg (by omega), mul_assoc, ← zpow_add₀ (by norm_num)]
    congr 2
    ring
  rw [hscaled]
  refine (h.isNearestInt_significand hm e).isNearestPattern ?_ ?_
  · rcases hplace with ⟨hl, -⟩ | ⟨hl, -⟩
    · right
      calc (2 : ℝ) ^ 23 = 2 ^ Nat.log2 m * (2 : ℝ) ^ (e - lastPlace m e) := by
            rw [← zpow_natCast, ← zpow_natCast, ← zpow_add₀ (by norm_num)]
            congr 1
            push_cast
            omega
        _ ≤ _ := mul_le_mul_of_nonneg_right hlow (by positivity)
    · left
      omega
  · calc t * (2 : ℝ) ^ (e - lastPlace m e) ≤ 2 ^ (Nat.log2 m + 1) * (2 : ℝ) ^ (23 - (Nat.log2 m : ℤ)) := by
          refine mul_le_mul hhigh (zpow_le_zpow_right₀ (by norm_num) (by omega)) (by positivity) (by positivity)
      _ = 2 ^ 24 := by
          rw [← zpow_natCast, ← zpow_add₀ (by norm_num),
            show ((Nat.log2 m + 1 : ℕ) : ℤ) + (23 - Nat.log2 m) = 24 by push_cast; ring]
          norm_num

/-- The model's rounding is roundTiesToEven of the number that its integer stands for. -/
theorem StandsFor.roundsTo_round (h : StandsFor m t) (hm : m ≠ 0) (sign : Bool) (e : ℤ) :
    RoundsTo (signOf sign * (t * (2 : ℝ) ^ e)) (Ieee.round sign m e) := by
  have ht : 0 ≤ t := le_trans (by positivity) (h.bounds hm).1
  have hunits : t * (2 : ℝ) ^ e = t * (2 : ℝ) ^ (e + 149) * (2 : ℝ) ^ (-149 : ℤ) := by
    rw [mul_assoc, ← zpow_add₀ (by norm_num), add_neg_cancel_right]
  rw [round_eq_packed sign hm, hunits]
  exact (h.isNearestPattern hm e).roundsTo (by positivity) sign

end

end Sys2Proof.Proofs.Rounding
end

section
/-! PROOFS. The recommended instantiation (46_fp_compute.md R190): what each operation computes, kind of operand by kind of
operand, and that on numbers it is the exact result rounded to nearest, ties to even. -/

namespace Sys2Proof.Proofs.IeeeOps

open Sys2Proof.Machine Sys2Proof.Claims Sys2Proof.Proofs.FloatValue Sys2Proof.Proofs.Rounding

/-! ### The kinds of pattern (R189) -/

section
variable (b : Word)

theorem fpExp_eq : fpExp b = expField b := rfl
theorem fpFrac_eq : fpFrac b = fracField b := rfl

/-- The kinds by their fields. -/
theorem fpClass_iff : (fpClass b = .nan ↔ IsNaN b) ∧ (fpClass b = .infinite ↔ IsInfinite b) ∧
    (fpClass b = .zero ↔ IsZero b) ∧ (fpClass b = .normal ↔ expField b ≠ 0 ∧ expField b ≠ 255) := by
  rw [fpClass, fpExp_eq, fpFrac_eq, IsNaN, IsInfinite, IsZero]
  by_cases h0 : expField b = 0
  · by_cases hf : fracField b = 0 <;> simp [h0, hf]
  · by_cases h255 : expField b = 255
    · by_cases hf : fracField b = 0 <;> simp [h255, hf]
    · simp [h0, h255]

theorem fpClass_nan_iff : fpClass b = .nan ↔ IsNaN b := (fpClass_iff b).1

theorem fpClass_infinite_iff : fpClass b = .infinite ↔ IsInfinite b := (fpClass_iff b).2.1

theorem fpClass_zero_iff : fpClass b = .zero ↔ IsZero b := (fpClass_iff b).2.2.1

theorem fpClass_normal_iff : fpClass b = .normal ↔ expField b ≠ 0 ∧ expField b ≠ 255 := (fpClass_iff b).2.2.2

theorem fpFinite_iff : fpFinite b = true ↔ HasVal b := by
  rw [fpFinite, bne_iff_ne, fpExp_eq, HasVal]

theorem isZero_iff : IsZero b ↔ lowBits b = 0 := by
  rw [IsZero, expField_eq, fracField_eq]
  omega

theorem isInfinite_iff : IsInfinite b ↔ lowBits b = 0x7F800000 := by
  have hb := lowBits_lt b
  rw [IsInfinite, expField_eq, fracField_eq]
  omega

theorem eq_infinityOf_of_isInfinite (h : IsInfinite b) : b = infinityOf (fpSign b) := by
  have hl := (isInfinite_iff b).mp h
  cases hs : fpSign b
  · exact eq_of_sign_of_lowBits (hs.trans (by decide)) (hl.trans (by decide))
  · exact eq_of_sign_of_lowBits (hs.trans (by decide)) (hl.trans (by decide))

theorem eq_zeroOf_of_lowBits {b : Word} (h : lowBits b = 0) : b = zeroOf (fpSign b) := by
  cases hs : fpSign b
  · exact eq_of_sign_of_lowBits (hs.trans (by decide)) (h.trans (by decide))
  · exact eq_of_sign_of_lowBits (hs.trans (by decide)) (h.trans (by decide))

end

section
variable {b : Word}

theorem not_nan_of_hasVal (h : HasVal b) : fpClass b ≠ .nan := fun hn => h ((fpClass_nan_iff b).mp hn).1

theorem not_infinite_of_hasVal (h : HasVal b) : fpClass b ≠ .infinite :=
  fun hn => h ((fpClass_infinite_iff b).mp hn).1

theorem zero_of_val_eq_zero (h : val b = 0) : fpClass b = .zero :=
  (fpClass_zero_iff b).mpr ((isZero_iff b).mpr ((val_eq_zero_iff b).mp h))

theorem not_zero_of_val_ne_zero (h : val b ≠ 0) : fpClass b ≠ .zero :=
  fun hz => h ((val_eq_zero_iff b).mpr ((isZero_iff b).mp ((fpClass_zero_iff b).mp hz)))

end

/-! ### Signs -/

theorem signOf_xor : ∀ s t : Bool, signOf (s != t) = signOf s * signOf t := by decide

theorem signOf_div (s t : Bool) : (signOf s : ℝ) / signOf t = ((signOf s * signOf t : ℤ) : ℝ) := by
  cases s <;> cases t <;> norm_num [signOf]

theorem lowBits_zero : ∀ s : Bool, lowBits (Ieee.zero s) = 0 := by decide

theorem fpSign_xor_signBit (b : Word) : fpSign (b ^^^ 0x80000000#32) = !fpSign b := by
  rw [fpSign, BitVec.getLsbD_xor]
  simp [fpSign]

theorem lowBits_xor_signBit (b : Word) : lowBits (b ^^^ 0x80000000#32) = lowBits b := by
  rw [lowBits, BitVec.toNat_xor, Nat.xor_mod_two_pow, lowBits]
  simp

theorem val_xor_signBit (b : Word) : val (b ^^^ 0x80000000#32) = -val b := by
  rw [val_eq_fpScaled, val_eq_fpScaled, fpScaled_eq, fpScaled_eq, fpSign_xor_signBit, lowBits_xor_signBit, signOf_not]
  push_cast
  ring

theorem hasVal_xor_signBit {b : Word} (h : HasVal b) : HasVal (b ^^^ 0x80000000#32) := by
  rw [hasVal_iff, lowBits_xor_signBit]
  exact (hasVal_iff b).mp h

/-- A value as sign, significand and place. -/
theorem val_eq_significand (b : Word) :
    (val b : ℝ) = signOf (fpSign b) * (fpMant b * (2 : ℝ) ^ ((fpPlace b : ℤ) - 149)) := by
  rw [val_cast_real, ← fpMagnitude_eq, fpMagnitude, sub_eq_add_neg, zpow_add₀ (by norm_num), zpow_natCast]
  push_cast
  ring

theorem fpMant_eq_zero_iff (b : Word) : fpMant b = 0 ↔ val b = 0 := by
  have hm : fpMagnitude b = 0 ↔ fpMant b = 0 := by rw [fpMagnitude, mul_eq_zero, or_iff_left (by positivity)]
  rw [← hm, fpMagnitude_eq, magnitudeOf_eq_zero_iff, val_eq_zero_iff]

/-- The sign bit of a number that is not zero is its sign. -/
theorem fpSign_iff_val_neg {b : Word} (h : val b ≠ 0) : fpSign b = true ↔ val b < 0 := by
  have hm : (0 : ℚ) < magnitudeOf (lowBits b) := by
    have h0 := mt (val_eq_zero_iff b).mpr h
    exact_mod_cast Nat.pos_of_ne_zero (mt magnitudeOf_eq_zero_iff.mp h0)
  have hpos := mul_pos hm unit_pos
  rw [val_eq_fpScaled, fpScaled_eq]
  push_cast
  rw [mul_assoc]
  cases fpSign b
  · simp [signOf]
  · simpa only [signOf, if_true, Int.cast_neg, Int.cast_one, neg_one_mul, neg_lt_zero, true_iff] using hpos

theorem fpMant_lt (b : Word) : fpMant b < 2 ^ 24 := by
  have hf : fpFrac b < 2 ^ 23 := (b.extractLsb' 0 23).isLt
  rw [fpMant]
  split <;> omega

theorem standsFor_self (m : ℕ) : StandsFor m m := .inl rfl

/-! ### Addition and subtraction -/

section
variable {a b b' : Word} {op : FpOp}

theorem addAs_of_hasVal (ha : HasVal a) (hb : HasVal b') :
    Ieee.addAs op a b b' = if fpScaled a + fpScaled b' = 0 then Ieee.zero (fpSign a && fpSign b')
      else Ieee.round (decide (fpScaled a + fpScaled b' < 0)) (fpScaled a + fpScaled b').natAbs (-149) := by
  simp [Ieee.addAs, Ieee.addExact, not_nan_of_hasVal ha, not_nan_of_hasVal hb, not_infinite_of_hasVal ha,
    (fpFinite_iff a).mpr ha, (fpFinite_iff b').mpr hb]

theorem signOf_mul_natAbs (n : ℤ) : signOf (decide (n < 0)) * (n.natAbs : ℤ) = n := by
  by_cases h : n < 0
  · rw [decide_eq_true h, signOf, if_pos rfl]
    omega
  · rw [decide_eq_false h, signOf, if_neg (by decide)]
    omega

theorem roundsTo_addAs (ha : HasVal a) (hb : HasVal b') :
    RoundsTo ((val a + val b' : ℚ) : ℝ) (Ieee.addAs op a b b') := by
  have hsum : ((val a + val b' : ℚ) : ℝ) = ((fpScaled a + fpScaled b' : ℤ) : ℝ) * (2 : ℝ) ^ (-149 : ℤ) := by
    rw [val_eq_fpScaled, val_eq_fpScaled]
    push_cast
    ring
  rw [addAs_of_hasVal ha hb, hsum]
  generalize fpScaled a + fpScaled b' = n
  by_cases hn : n = 0
  · rw [if_pos hn, hn, Int.cast_zero, zero_mul]
    exact roundsTo_zero (lowBits_zero _)
  · rw [if_neg hn]
    have h := (standsFor_self n.natAbs).roundsTo_round (Int.natAbs_ne_zero.mpr hn) (decide (n < 0)) (-149)
    have hcast := congrArg (Int.cast : ℤ → ℝ) (signOf_mul_natAbs n)
    rw [Int.cast_mul, Int.cast_natCast] at hcast
    rwa [← mul_assoc, hcast] at h

theorem roundsTo_add (ha : HasVal a) (hb : HasVal b) : RoundsTo ((val a + val b : ℚ) : ℝ) (Ieee.add a b) :=
  roundsTo_addAs ha hb

theorem roundsTo_sub (ha : HasVal a) (hb : HasVal b) : RoundsTo ((val a - val b : ℚ) : ℝ) (Ieee.sub a b) := by
  rw [sub_eq_add_neg, ← val_xor_signBit]
  exact roundsTo_addAs ha (hasVal_xor_signBit hb)

/-- The sign of a sum that is zero: negative only where both terms are negative zeros. -/
theorem addAs_of_sum_zero (ha : HasVal a) (hb : HasVal b') (h : val a + val b' = 0) :
    Ieee.addAs op a b b' = zeroOf (a == zeroOf true && b' == zeroOf true) := by
  have hsum : fpScaled a + fpScaled b' = 0 := by
    rw [val_eq_fpScaled, val_eq_fpScaled, ← add_mul, mul_eq_zero, or_iff_left unit_pos.ne'] at h
    exact_mod_cast h
  have hsign : (fpSign a && fpSign b') = (a == zeroOf true && b' == zeroOf true) := by
    rw [Bool.eq_iff_iff, Bool.and_eq_true, Bool.and_eq_true, beq_iff_eq, beq_iff_eq]
    constructor
    · rintro ⟨hsa, hsb⟩
      rw [fpScaled_eq, fpScaled_eq, hsa, hsb, signOf, if_pos rfl] at hsum
      have hma : lowBits a = 0 := magnitudeOf_eq_zero_iff.mp (by omega)
      have hmb : lowBits b' = 0 := magnitudeOf_eq_zero_iff.mp (by omega)
      exact ⟨hsa ▸ eq_zeroOf_of_lowBits hma, hsb ▸ eq_zeroOf_of_lowBits hmb⟩
    · rintro ⟨rfl, rfl⟩
      decide
  rw [addAs_of_hasVal ha hb, if_pos hsum, hsign]
  rfl

end

/-! ### Multiplication -/

section
variable {a b : Word}

theorem mul_of_hasVal (ha : HasVal a) (hb : HasVal b) :
    Ieee.mul a b = Ieee.round (fpSign a != fpSign b) (fpMant a * fpMant b) ((fpPlace a : ℤ) + fpPlace b - 298) := by
  simp [Ieee.mul, not_nan_of_hasVal ha, not_nan_of_hasVal hb, not_infinite_of_hasVal ha, not_infinite_of_hasVal hb]

theorem round_zero (sign : Bool) (e : ℤ) : Ieee.round sign 0 e = Ieee.zero sign := if_pos rfl

theorem mul_of_product_zero (ha : HasVal a) (hb : HasVal b) (h : val a * val b = 0) :
    Ieee.mul a b = zeroOf (fpSign a != fpSign b) := by
  have hm : fpMant a * fpMant b = 0 := by
    rwa [mul_eq_zero, fpMant_eq_zero_iff, fpMant_eq_zero_iff, ← mul_eq_zero]
  rw [mul_of_hasVal ha hb, hm, round_zero]
  rfl

theorem roundsTo_mul (ha : HasVal a) (hb : HasVal b) : RoundsTo ((val a * val b : ℚ) : ℝ) (Ieee.mul a b) := by
  by_cases h0 : val a * val b = 0
  · rw [mul_of_product_zero ha hb h0, h0, Rat.cast_zero]
    exact roundsTo_zero (lowBits_zero _)
  · have hm : fpMant a * fpMant b ≠ 0 := by
      rwa [Ne, mul_eq_zero, fpMant_eq_zero_iff, fpMant_eq_zero_iff, ← mul_eq_zero]
    have h := (standsFor_self _).roundsTo_round hm (fpSign a != fpSign b) ((fpPlace a : ℤ) + fpPlace b - 298)
    have hx : ((val a * val b : ℚ) : ℝ) = signOf (fpSign a != fpSign b) *
        (((fpMant a * fpMant b : ℕ) : ℝ) * (2 : ℝ) ^ ((fpPlace a : ℤ) + fpPlace b - 298)) := by
      rw [Rat.cast_mul, val_eq_significand, val_eq_significand, signOf_xor,
        show (fpPlace a : ℤ) + fpPlace b - 298 = (fpPlace a - 149) + (fpPlace b - 149) by ring,
        zpow_add₀ (by norm_num)]
      push_cast
      ring
    rwa [hx, mul_of_hasVal ha hb]

/-! ### Division -/

theorem div_of_hasVal (ha : HasVal a) (hb : HasVal b) (hb0 : val b ≠ 0) :
    Ieee.div a b = Ieee.round (fpSign a != fpSign b)
      (2 * (fpMant a * 2 ^ 50 / fpMant b) + if fpMant a * 2 ^ 50 % fpMant b = 0 then 0 else 1)
      ((fpPlace a : ℤ) - fpPlace b - 51) := by
  simp [Ieee.div, not_nan_of_hasVal ha, not_nan_of_hasVal hb, not_infinite_of_hasVal ha, not_infinite_of_hasVal hb,
    not_zero_of_val_ne_zero hb0]

theorem div_of_dividend_zero (ha : HasVal a) (hb : HasVal b) (ha0 : val a = 0) (hb0 : val b ≠ 0) :
    Ieee.div a b = zeroOf (fpSign a != fpSign b) := by
  rw [div_of_hasVal ha hb hb0, (fpMant_eq_zero_iff a).mpr ha0, Nat.zero_mul, Nat.zero_div, Nat.zero_mod, if_pos rfl]
  exact round_zero ..

/-- Twice a quotient with one more bit for the bits that follow stands for twice the exact quotient. -/
theorem standsFor_quotient {n d : ℕ} (hd : 0 < d) (hbig : 2 ^ 24 ≤ n / d) :
    StandsFor (2 * (n / d) + if n % d = 0 then 0 else 1) (2 * (n / d : ℝ)) := by
  have hd' : (0 : ℝ) < d := by exact_mod_cast hd
  have hdiv : (n : ℝ) / d = (n / d : ℕ) + ((n % d : ℕ) : ℝ) / d := by
    rw [div_eq_iff hd'.ne', add_mul, div_mul_cancel₀ _ hd'.ne']
    exact_mod_cast (Nat.div_add_mod' n d).symm
  rw [hdiv]
  split
  · rename_i h0
    left
    rw [h0]
    push_cast
    ring
  · rename_i h0
    have hpos : (0 : ℝ) < ((n % d : ℕ) : ℝ) / d := div_pos (by exact_mod_cast Nat.pos_of_ne_zero h0) hd'
    have hlt : ((n % d : ℕ) : ℝ) / d < 1 := (div_lt_one hd').mpr (by exact_mod_cast Nat.mod_lt n hd)
    refine .inr ⟨by omega, by omega, ?_⟩
    push_cast
    rw [abs_lt]
    constructor <;> linarith

theorem roundsTo_div (ha : HasVal a) (hb : HasVal b) (hb0 : val b ≠ 0) :
    RoundsTo ((val a / val b : ℚ) : ℝ) (Ieee.div a b) := by
  by_cases ha0 : val a = 0
  · rw [div_of_dividend_zero ha hb ha0 hb0, ha0, zero_div, Rat.cast_zero]
    exact roundsTo_zero (lowBits_zero _)
  · have hn : 0 < fpMant a := Nat.pos_of_ne_zero (mt (fpMant_eq_zero_iff a).mp ha0)
    have hd : 0 < fpMant b := Nat.pos_of_ne_zero (mt (fpMant_eq_zero_iff b).mp hb0)
    have hbig : 2 ^ 24 ≤ fpMant a * 2 ^ 50 / fpMant b := by
      rw [Nat.le_div_iff_mul_le hd]
      calc 2 ^ 24 * fpMant b ≤ 2 ^ 24 * 2 ^ 24 := Nat.mul_le_mul_left _ (fpMant_lt b).le
        _ ≤ 1 * 2 ^ 50 := by norm_num
        _ ≤ fpMant a * 2 ^ 50 := Nat.mul_le_mul_right _ hn
    have h := (standsFor_quotient hd hbig).roundsTo_round (by omega) (fpSign a != fpSign b)
      ((fpPlace a : ℤ) - fpPlace b - 51)
    have hx : ((val a / val b : ℚ) : ℝ) = signOf (fpSign a != fpSign b) *
        (2 * (((fpMant a * 2 ^ 50 : ℕ) : ℝ) / fpMant b) * (2 : ℝ) ^ ((fpPlace a : ℤ) - fpPlace b - 51)) := by
      have hshift : (2 : ℝ) ^ (-51 : ℤ) = 1 / (2 * 2 ^ 50) := by norm_num
      rw [Rat.cast_div, val_eq_significand, val_eq_significand, signOf_xor, mul_div_mul_comm, mul_div_mul_comm,
        ← zpow_sub₀ (by norm_num), signOf_div,
        show (fpPlace a : ℤ) - fpPlace b - 51 = (fpPlace a - 149 - (fpPlace b - 149)) + -51 by ring,
        zpow_add₀ (by norm_num), hshift]
      push_cast
      ring
    rwa [hx, div_of_hasVal ha hb hb0]

/-! ### Square root -/

/-- The integer square root, bit by bit: `r` is right down to bit `k`. -/
theorem isqrtFrom_spec (n : ℕ) : ∀ k r : ℕ, r * r ≤ n → n < (r + 2 ^ k) * (r + 2 ^ k) →
    Ieee.isqrtFrom n k r * Ieee.isqrtFrom n k r ≤ n ∧ n < (Ieee.isqrtFrom n k r + 1) * (Ieee.isqrtFrom n k r + 1) := by
  intro k
  induction k with
  | zero => exact fun r hle hlt => ⟨hle, hlt⟩
  | succ k ih =>
    intro r hle hlt
    rw [Ieee.isqrtFrom]
    split
    · rename_i hbit
      exact ih _ hbit (by rwa [add_assoc, ← two_mul, ← Nat.pow_succ'])
    · rename_i hbit
      exact ih _ hle (Nat.lt_of_not_le hbit)

/-- Twice an integer root with one more bit for what is left stands for twice the exact root. -/
theorem standsFor_root {n r : ℕ} (hle : r * r ≤ n) (hlt : n < (r + 1) * (r + 1)) (hbig : 2 ^ 24 ≤ r) :
    StandsFor (2 * r + if r * r = n then 0 else 1) (2 * Real.sqrt n) := by
  have hr : (0 : ℝ) ≤ r := Nat.cast_nonneg r
  split
  · rename_i heq
    left
    rw [← heq, Nat.cast_mul, Real.sqrt_mul_self hr]
    push_cast
    ring
  · rename_i hne
    have hlo : (r : ℝ) < Real.sqrt n := by
      rw [Real.lt_sqrt hr, sq]
      exact_mod_cast Nat.lt_of_le_of_ne hle hne
    have hhi : Real.sqrt n < r + 1 := by
      rw [Real.sqrt_lt' (by positivity), sq]
      exact_mod_cast hlt
    refine .inr ⟨by omega, by omega, ?_⟩
    push_cast
    rw [abs_lt]
    constructor <;> linarith

/-- The radicand of the recommended root: the operand as an integer at an even place. -/
def radicand (a : Word) : ℕ := fpMant a * 2 ^ ((fpPlace a + 1) % 2) * 2 ^ 52

theorem radicand_lt (a : Word) : radicand a < (0 + 2 ^ 39) * (0 + 2 ^ 39) := by
  have hodd : 2 ^ ((fpPlace a + 1) % 2) ≤ 2 ^ 1 := Nat.pow_le_pow_right (by norm_num) (by omega)
  calc radicand a ≤ 2 ^ 24 * 2 ^ 1 * 2 ^ 52 := Nat.mul_le_mul_right _ (Nat.mul_le_mul (fpMant_lt a).le hodd)
    _ < (0 + 2 ^ 39) * (0 + 2 ^ 39) := by norm_num

theorem le_radicand (h : 0 < fpMant a) : 2 ^ 52 ≤ radicand a :=
  Nat.le_mul_of_pos_left _ (Nat.mul_pos h (Nat.two_pow_pos _))

theorem sqrt_val_eq (hs : fpSign a = false) :
    Real.sqrt (val a : ℝ) = 2 * Real.sqrt (radicand a) * (2 : ℝ) ^ ((((fpPlace a + 1) / 2 : ℕ) : ℤ) - 102) := by
  have hplace : (fpPlace a : ℤ) - 149 =
      (((fpPlace a + 1) % 2 : ℕ) : ℤ) + 52 + ((((fpPlace a + 1) / 2 : ℕ) : ℤ) - 101) +
        ((((fpPlace a + 1) / 2 : ℕ) : ℤ) - 101) := by
    omega
  have hval : (val a : ℝ) = (radicand a : ℝ) *
      ((2 : ℝ) ^ ((((fpPlace a + 1) / 2 : ℕ) : ℤ) - 101) * (2 : ℝ) ^ ((((fpPlace a + 1) / 2 : ℕ) : ℤ) - 101)) := by
    rw [val_eq_significand, hs, signOf_false_mul, hplace, zpow_add₀ (by norm_num), zpow_add₀ (by norm_num),
      zpow_add₀ (by norm_num), zpow_natCast, radicand]
    push_cast
    ring
  have hdouble : (2 : ℝ) ^ ((((fpPlace a + 1) / 2 : ℕ) : ℤ) - 101) =
      2 * (2 : ℝ) ^ ((((fpPlace a + 1) / 2 : ℕ) : ℤ) - 102) := by
    rw [← zpow_one_add₀ (by norm_num)]
    congr 1
    ring
  rw [hval, Real.sqrt_mul (Nat.cast_nonneg _), Real.sqrt_mul_self (by positivity), hdouble]
  ring

/-- The recommended root of a positive number is one rounding, of its integer root. -/
theorem exists_sqrt_eq_round (ha : HasVal a) (hz : val a ≠ 0) (hsign : fpSign a = false) :
    ∃ r, r * r ≤ radicand a ∧ radicand a < (r + 1) * (r + 1) ∧
      Ieee.sqrt a = Ieee.round false (2 * r + if r * r = radicand a then 0 else 1)
        (((fpPlace a + 1) / 2 : ℕ) - 102) := by
  obtain ⟨hle, hlt⟩ := isqrtFrom_spec (radicand a) 39 0 (Nat.zero_le _) (radicand_lt a)
  refine ⟨_, hle, hlt, ?_⟩
  rw [Ieee.sqrt, if_neg (not_nan_of_hasVal ha), if_neg (not_zero_of_val_ne_zero hz), if_neg (by simp [hsign]),
    if_neg (not_infinite_of_hasVal ha)]
  rfl

theorem roundsTo_sqrt (ha : HasVal a) (h0 : 0 ≤ val a) : RoundsTo (Real.sqrt (val a : ℝ)) (Ieee.sqrt a) := by
  by_cases hz : val a = 0
  · rw [Ieee.sqrt, if_neg (not_nan_of_hasVal ha), if_pos (zero_of_val_eq_zero hz), hz, Rat.cast_zero, Real.sqrt_zero]
    exact roundsTo_zero ((val_eq_zero_iff a).mp hz)
  · have hsign : fpSign a = false :=
      Bool.eq_false_iff.mpr fun hs => absurd h0 (not_le.mpr ((fpSign_iff_val_neg hz).mp hs))
    have hlow := le_radicand (Nat.pos_of_ne_zero (mt (fpMant_eq_zero_iff a).mp hz))
    obtain ⟨r, hle, hlt, hround⟩ := exists_sqrt_eq_round ha hz hsign
    have hbig : 2 ^ 24 ≤ r := by
      by_contra hsmall
      have hsq : (r + 1) * (r + 1) ≤ 2 ^ 24 * 2 ^ 24 := Nat.mul_le_mul (by omega) (by omega)
      omega
    have h := (standsFor_root hle hlt hbig).roundsTo_round (by omega) false (((fpPlace a + 1) / 2 : ℕ) - 102)
    rw [signOf_false_mul] at h
    rwa [hround, sqrt_val_eq hsign]

end

end Sys2Proof.Proofs.IeeeOps
end

section
/-! PROOFS. The floating-point instructions: what each writes (46_fp_compute.md R171 to R188), the moves and sign
instructions (R176 to R181, R187), and the results of the recommended arithmetic on numbers (R190). -/

namespace Sys2Proof.Proofs.FloatInstructions

open Sys2Proof.Machine Sys2Proof.Claims Sys2Proof.Proofs.FloatValue Sys2Proof.Proofs.Rounding Sys2Proof.Proofs.IeeeOps
open Sys2Proof.Proofs.Encoding

/-! ### What each instruction writes -/

section
variable (s : State)

section
variable (rd a b : FReg)

theorem givesF_fadd : GivesF (.fadd rd a b) s rd (fadd32 s.params.numerics (s.readF a) (s.readF b)) :=
  givesF_of_setF rfl
theorem givesF_fsub : GivesF (.fsub rd a b) s rd (fsub32 s.params.numerics (s.readF a) (s.readF b)) :=
  givesF_of_setF rfl
theorem givesF_fmul : GivesF (.fmul rd a b) s rd (fmul32 s.params.numerics (s.readF a) (s.readF b)) :=
  givesF_of_setF rfl
theorem givesF_fdiv : GivesF (.fdiv rd a b) s rd (fdiv32 s.params.numerics (s.readF a) (s.readF b)) :=
  givesF_of_setF rfl
theorem givesF_fsqrt : GivesF (.fsqrt rd a) s rd (fsqrt32 s.params.numerics (s.readF a)) := givesF_of_setF rfl
theorem givesF_fmvff : GivesF (.fmvff rd a) s rd (s.readF a) := givesF_of_setF rfl
theorem givesF_fneg : GivesF (.fneg rd a) s rd (fneg32 (s.readF a)) := givesF_of_setF rfl
theorem givesF_fabs : GivesF (.fabs rd a) s rd (fabs32 (s.readF a)) := givesF_of_setF rfl

end

theorem givesF_itof (rd : FReg) (n : XReg) : GivesF (.itof rd n) s rd (itof32 s.params.numerics (s.readX n)) :=
  givesF_of_setF rfl
theorem givesF_xtof (rd : FReg) (n : XReg) : GivesF (.xtof rd n) s rd (s.readX n) := givesF_of_setF rfl

section
variable (rd : XReg) (a b : FReg)

theorem givesX_ftoi : GivesX (.ftoi rd a) s rd (ftoi32 s.params.ftoiTie (s.readF a)) (s.pc + 1#32) :=
  givesX_of_setX rfl
theorem givesX_floor : GivesX (.floor rd a) s rd (floor32 (s.readF a)) (s.pc + 1#32) := givesX_of_setX rfl
theorem givesX_ftox : GivesX (.ftox rd a) s rd (s.readF a) (s.pc + 1#32) := givesX_of_setX rfl
theorem givesX_feq :
    GivesX (.feq rd a b) s rd (flagWord (feq32 s.params.numerics (s.readF a) (s.readF b))) (s.pc + 1#32) :=
  givesX_of_setX rfl
theorem givesX_flt :
    GivesX (.flt rd a b) s rd (flagWord (flt32 s.params.numerics (s.readF a) (s.readF b))) (s.pc + 1#32) :=
  givesX_of_setX rfl
theorem givesX_fle :
    GivesX (.fle rd a b) s rd (flagWord (fle32 s.params.numerics (s.readF a) (s.readF b))) (s.pc + 1#32) :=
  givesX_of_setX rfl

end

end

/-! ### The recommended arithmetic -/

section
variable {s : State} (hnum : s.params.numerics = .ieee754) (rd a b : FReg)
include hnum

theorem givesF_ieee_add : GivesF (.fadd rd a b) s rd (Ieee.add (s.readF a) (s.readF b)) := by
  have h := givesF_fadd s rd a b
  rwa [hnum] at h
theorem givesF_ieee_sub : GivesF (.fsub rd a b) s rd (Ieee.sub (s.readF a) (s.readF b)) := by
  have h := givesF_fsub s rd a b
  rwa [hnum] at h
theorem givesF_ieee_mul : GivesF (.fmul rd a b) s rd (Ieee.mul (s.readF a) (s.readF b)) := by
  have h := givesF_fmul s rd a b
  rwa [hnum] at h
theorem givesF_ieee_div : GivesF (.fdiv rd a b) s rd (Ieee.div (s.readF a) (s.readF b)) := by
  have h := givesF_fdiv s rd a b
  rwa [hnum] at h
theorem givesF_ieee_sqrt : GivesF (.fsqrt rd a) s rd (Ieee.sqrt (s.readF a)) := by
  have h := givesF_fsqrt s rd a
  rwa [hnum] at h

end

/-! ### Two states that write the same value -/

section
variable {s t s' t' : State} {i : Instr} {v w : Word}

theorem readF_eq_of_givesF {rd : FReg} (hw : WritableF rd) (hs' : exec i s = .next s') (ht' : exec i t = .next t')
    (hs : GivesF i s rd v) (ht : GivesF i t rd w) (hvw : v = w) : s'.readF rd = t'.readF rd := by
  obtain ⟨u, hu, -, ⟨hsv, -, -⟩, -⟩ := hs
  obtain ⟨u', hu', -, ⟨htw, -, -⟩, -⟩ := ht
  cases hs'.symm.trans hu
  cases ht'.symm.trans hu'
  rw [hsv hw, htw hw, hvw]

theorem readX_eq_of_givesX {rd : XReg} {p q : Word} (hs' : exec i s = .next s') (ht' : exec i t = .next t')
    (hs : GivesX i s rd v p) (ht : GivesX i t rd w q) (hvw : v = w) : s'.readX rd = t'.readX rd := by
  obtain ⟨u, hu, -, hsv, -⟩ := hs
  obtain ⟨u', hu', -, htw, -⟩ := ht
  cases hs'.symm.trans hu
  cases ht'.symm.trans hu'
  rw [hsv rd, htw rd, hvw, if_pos rfl, if_pos rfl]

end

/-! ### The sign bit -/

theorem fneg32_eq (b : Word) : fneg32 b = ~~~(b.extractLsb' 31 1) ++ b.extractLsb' 0 31 := by
  apply BitVec.eq_of_getLsbD_eq
  intro k hk
  rw [fneg32, BitVec.getLsbD_xor, BitVec.getLsbD_append]
  interval_cases k <;> simp

theorem fabs32_eq (b : Word) : fabs32 b = 0#1 ++ b.extractLsb' 0 31 := by
  apply BitVec.eq_of_getLsbD_eq
  intro k hk
  rw [fabs32, BitVec.getLsbD_and, BitVec.getLsbD_append]
  interval_cases k <;> simp

/-! ### Signs of zeros -/

theorem beq_xor_signBit (b : Word) : (b ^^^ 0x80000000#32 == zeroOf true) = (b == zeroOf false) := by
  rw [Bool.eq_iff_iff, beq_iff_eq, beq_iff_eq]
  constructor
  · intro h
    have hx := congrArg (· ^^^ 0x80000000#32) h
    simpa [BitVec.xor_assoc, zeroOf] using hx
  · rintro rfl
    decide

/-- A positive root is the root. -/
theorem sqrt_cast_eq {p q : ℚ} (hp : 0 < p) (h : p * p = q) : Real.sqrt (q : ℝ) = p := by
  rw [← h, Rat.cast_mul, Real.sqrt_mul_self (by exact_mod_cast hp.le)]

end Sys2Proof.Proofs.FloatInstructions

namespace Sys2Proof.Proofs

open Sys2Proof.Machine Sys2Proof.Claims Sys2Proof.Proofs.FloatValue Sys2Proof.Proofs.Rounding Sys2Proof.Proofs.IeeeOps
open Sys2Proof.Proofs.FloatInstructions Sys2Proof.Proofs.Encoding

/-- Settles O29: each instruction writes the function that the parameter chooses. -/
theorem floatArithmeticGivesItsFunction : Obligations.FloatArithmeticGivesItsFunction := by
  intro s rd rs1 rs2
  constructor
  · intro hnum
    have hadd := givesF_fadd s rd rs1 rs2
    have hsub := givesF_fsub s rd rs1 rs2
    have hmul := givesF_fmul s rd rs1 rs2
    have hdiv := givesF_fdiv s rd rs1 rs2
    have hsqrt := givesF_fsqrt s rd rs1
    rw [hnum] at hadd hsub hmul hdiv hsqrt
    exact ⟨hadd, hsub, hmul, hdiv, hsqrt⟩
  · exact fun hnum => ⟨givesF_ieee_add hnum .., givesF_ieee_sub hnum .., givesF_ieee_mul hnum ..,
      givesF_ieee_div hnum .., givesF_ieee_sqrt hnum ..⟩

/-- Settles O30: the values the two states write are the same function of equal operands and parameters. -/
theorem floatResultsDependOnOperandsAlone : Obligations.FloatResultsDependOnOperandsAlone := by
  intro s t s' t' i a b n ha hb hn hp hs ht
  constructor
  · rintro rd hw (rfl | rfl | rfl | rfl | rfl | rfl)
    · exact readF_eq_of_givesF hw hs ht (givesF_fadd ..) (givesF_fadd ..) (by rw [ha, hb, hp])
    · exact readF_eq_of_givesF hw hs ht (givesF_fsub ..) (givesF_fsub ..) (by rw [ha, hb, hp])
    · exact readF_eq_of_givesF hw hs ht (givesF_fmul ..) (givesF_fmul ..) (by rw [ha, hb, hp])
    · exact readF_eq_of_givesF hw hs ht (givesF_fdiv ..) (givesF_fdiv ..) (by rw [ha, hb, hp])
    · exact readF_eq_of_givesF hw hs ht (givesF_fsqrt ..) (givesF_fsqrt ..) (by rw [ha, hp])
    · exact readF_eq_of_givesF hw hs ht (givesF_itof ..) (givesF_itof ..) (by rw [hn, hp])
  · rintro rd (rfl | rfl | rfl | rfl | rfl)
    · exact readX_eq_of_givesX hs ht (givesX_ftoi ..) (givesX_ftoi ..) (by rw [ha, hp])
    · exact readX_eq_of_givesX hs ht (givesX_floor ..) (givesX_floor ..) (by rw [ha])
    · exact readX_eq_of_givesX hs ht (givesX_feq ..) (givesX_feq ..) (by rw [ha, hb, hp])
    · exact readX_eq_of_givesX hs ht (givesX_flt ..) (givesX_flt ..) (by rw [ha, hb, hp])
    · exact readX_eq_of_givesX hs ht (givesX_fle ..) (givesX_fle ..) (by rw [ha, hb, hp])

/-- Settles O31: the words are the encodings, and the operations act bit by bit. -/
theorem signInstructionsActOnBits : Obligations.SignInstructionsActOnBits := by
  intro s rd rs1
  refine ⟨fun fe => ⟨?_, ?_, ?_⟩, givesF_fmvff .., ?_, ?_⟩
  · exact decodeWith_encodeWith fe (i := .fmvff rd rs1) rfl
  · exact decodeWith_encodeWith fe (i := .fneg rd rs1) rfl
  · exact decodeWith_encodeWith fe (i := .fabs rd rs1) rfl
  · rw [← fneg32_eq]
    exact givesF_fneg ..
  · rw [← fabs32_eq]
    exact givesF_fabs ..

/-- Settles O32: the words are the encodings, and the moves copy their operand. -/
theorem movesBetweenFilesCopyBits : Obligations.MovesBetweenFilesCopyBits := by
  intro s x1 f1
  refine ⟨fun fe => ⟨?_, ?_⟩, givesX_ftox .., givesF_xtof ..⟩
  · exact decodeWith_encodeWith fe (i := .ftox x1 f1) rfl
  · exact decodeWith_encodeWith fe (i := .xtof f1 x1) rfl

/-- Settles O39: a number that is the exact result is its rounding, and the zeros are those of the operations. -/
theorem recommendedArithmeticIsExactWhereItCanBe : Obligations.RecommendedArithmeticIsExactWhereItCanBe := by
  intro s rd rs1 rs2 hnum a b ha hb
  refine ⟨fun c hc h0 => ⟨fun h => ?_, fun h => ?_, fun h => ?_, fun hb0 h => ?_, fun hpos h => ?_⟩,
    fun h => ?_, fun h => ?_, fun h => ?_, fun ha0 hb0 => ?_, fun ha0 => ?_⟩
  · rw [← eq_of_roundsTo_val hc h0 (h ▸ roundsTo_add ha hb)]
    exact givesF_ieee_add hnum ..
  · rw [← eq_of_roundsTo_val hc h0 (h ▸ roundsTo_sub ha hb)]
    exact givesF_ieee_sub hnum ..
  · rw [← eq_of_roundsTo_val hc h0 (h ▸ roundsTo_mul ha hb)]
    exact givesF_ieee_mul hnum ..
  · rw [← eq_of_roundsTo_val hc h0 (h ▸ roundsTo_div ha hb hb0)]
    exact givesF_ieee_div hnum ..
  · have hround := roundsTo_sqrt ha (h ▸ mul_self_nonneg (val c))
    rw [sqrt_cast_eq hpos h] at hround
    rw [← eq_of_roundsTo_val hc h0 hround]
    exact givesF_ieee_sqrt hnum ..
  · rw [← addAs_of_sum_zero (op := .add) (b := b) ha hb h]
    exact givesF_ieee_add hnum ..
  · rw [sub_eq_add_neg, ← val_xor_signBit] at h
    rw [← beq_xor_signBit, ← addAs_of_sum_zero (op := .sub) (b := b) ha (hasVal_xor_signBit hb) h]
    exact givesF_ieee_sub hnum ..
  · have hmul := givesF_ieee_mul hnum rd rs1 rs2
    rwa [mul_of_product_zero ha hb h] at hmul
  · have hdiv := givesF_ieee_div hnum rd rs1 rs2
    rwa [div_of_dividend_zero ha hb ha0 hb0] at hdiv
  · have hsqrt := givesF_ieee_sqrt hnum rd rs1
    rwa [Ieee.sqrt, if_neg (not_nan_of_hasVal ha), if_pos (zero_of_val_eq_zero ha0)] at hsqrt

/-- Settles O40. -/
theorem recommendedArithmeticRoundsToNearest : Obligations.RecommendedArithmeticRoundsToNearest :=
  fun _ _ _ _ hnum ha hb => ⟨⟨_, givesF_ieee_add hnum .., roundsTo_add ha hb⟩,
    ⟨_, givesF_ieee_sub hnum .., roundsTo_sub ha hb⟩, ⟨_, givesF_ieee_mul hnum .., roundsTo_mul ha hb⟩⟩

/-- Settles O41. -/
theorem recommendedQuotientsAndRootsRoundToNearest : Obligations.RecommendedQuotientsAndRootsRoundToNearest :=
  fun _ _ _ _ hnum ha => ⟨fun hb hb0 => ⟨_, givesF_ieee_div hnum .., roundsTo_div ha hb hb0⟩,
    fun h0 => ⟨_, givesF_ieee_sqrt hnum .., roundsTo_sqrt ha h0⟩⟩

end Sys2Proof.Proofs
end

section
/-! PROOFS. The conversions (46_fp_compute.md R180, R186, R188): the integer below a value and the rest, the pattern below
an integer and the one above. -/

namespace Sys2Proof.Proofs.Conversions

open Sys2Proof.Machine Sys2Proof.Claims Sys2Proof.Proofs.FloatValue Sys2Proof.Proofs.Rounding Sys2Proof.Proofs.IeeeOps

/-! ### From a value to an integer -/

section
variable {b : Word} {n : ℤ} {tie : FtoiTie}

theorem val_eq_floor_add_rest (b : Word) : val b = fpFloor b + fpRest b * (2 : ℚ) ^ (-149 : ℤ) := by
  have hsplit : fpScaled b = fpRest b + 2 ^ 149 * fpFloor b := (Int.emod_add_mul_ediv (fpScaled b) (2 ^ 149)).symm
  have hunit : (2 : ℚ) ^ 149 * (2 : ℚ) ^ (-149 : ℤ) = 1 := by norm_num
  rw [val_eq_fpScaled, hsplit]
  push_cast
  linear_combination (fpFloor b : ℚ) * hunit

theorem floor_val (b : Word) : ⌊val b⌋ = fpFloor b := by
  have hlo : 0 ≤ fpRest b := Int.emod_nonneg (fpScaled b) (by norm_num)
  have hhi : fpRest b < 2 ^ 149 := Int.emod_lt_of_pos (fpScaled b) (by norm_num)
  have hlo' : (0 : ℚ) ≤ fpRest b * (2 : ℚ) ^ (-149 : ℤ) := mul_nonneg (Int.cast_nonneg hlo) unit_pos.le
  have hhi' : (fpRest b : ℚ) * (2 : ℚ) ^ (-149 : ℤ) < 1 := by
    calc (fpRest b : ℚ) * (2 : ℚ) ^ (-149 : ℤ) < 2 ^ 149 * (2 : ℚ) ^ (-149 : ℤ) :=
          mul_lt_mul_of_pos_right (by exact_mod_cast hhi) unit_pos
      _ = 1 := by norm_num
  rw [Int.floor_eq_iff, val_eq_floor_add_rest]
  constructor <;> linarith

/-- The rest compares with one half as the part of the value after the point does. -/
theorem rest_lt_half_iff : fpRest b < 2 ^ 148 ↔ val b - fpFloor b < 1 / 2 := by
  rw [val_eq_floor_add_rest b, add_sub_cancel_left, ← Int.cast_lt (R := ℚ)]
  norm_num
  constructor <;> intro h <;> linarith

theorem half_lt_rest_iff : 2 ^ 148 < fpRest b ↔ 1 / 2 < val b - fpFloor b := by
  rw [val_eq_floor_add_rest b, add_sub_cancel_left, ← Int.cast_lt (R := ℚ)]
  norm_num
  constructor <;> intro h <;> linarith

theorem int_eq_of_sub_lt_one {m n : ℤ} (hlo : (-1 : ℚ) < m - n) (hhi : (m - n : ℚ) < 1) : m = n := by
  have hlo' : -1 < m - n := by exact_mod_cast hlo
  have hhi' : m - n < 1 := by exact_mod_cast hhi
  omega

theorem fpNearest_of_close (h : |val b - n| < 1 / 2) : fpNearest tie b = n := by
  obtain ⟨hlo, hhi⟩ := abs_lt.mp h
  have hfloor := Int.floor_le (val b)
  have hfloor' := Int.lt_floor_add_one (val b)
  rw [floor_val] at hfloor hfloor'
  simp only [fpNearest, rest_lt_half_iff, half_lt_rest_iff]
  split
  · exact int_eq_of_sub_lt_one (by linarith) (by linarith)
  · split
    · exact int_eq_of_sub_lt_one (by push_cast; linarith) (by push_cast; linarith)
    · have hne : fpFloor b + 1 = n := int_eq_of_sub_lt_one (by push_cast; linarith) (by push_cast; linarith)
      have hcast : (fpFloor b : ℚ) + 1 = n := by exact_mod_cast hne
      linarith

theorem fpNearest_of_tie (h : val b = n + 1 / 2) : fpNearest tie b = if tieUp tie b n then n + 1 else n := by
  have hfloor : fpFloor b = n := by
    rw [← floor_val, Int.floor_eq_iff]
    constructor <;> linarith
  simp only [fpNearest, rest_lt_half_iff, half_lt_rest_iff, hfloor, h, add_sub_cancel_left, lt_irrefl, if_false]

theorem ftoi32_eq (hb : HasVal b) (hn : InInt32 n) (h : fpNearest tie b = n) : ftoi32 tie b = BitVec.ofInt 32 n := by
  have hin : inInt32 n = true := decide_eq_true ⟨hn.1, hn.2⟩
  rw [ftoi32, h, (fpFinite_iff b).mpr hb, hin]
  rfl

theorem floor32_eq (hb : HasVal b) (hn : InInt32 n) (h : fpFloor b = n) : floor32 b = BitVec.ofInt 32 n := by
  have hin : inInt32 n = true := decide_eq_true ⟨hn.1, hn.2⟩
  rw [floor32, h, (fpFinite_iff b).mpr hb, hin]
  rfl

end

/-! ### From an integer to a pattern -/

section
variable {n : ℕ}

theorem truncToFp_of_log2_le (hn : n ≠ 0) (hk : Nat.log2 n ≤ 23) :
    truncToFp n = ((Nat.log2 n + 126) * 2 ^ 23 + n * 2 ^ (23 - Nat.log2 n), 0, 0) := by
  rw [truncToFp, if_neg hn, if_pos hk]

theorem truncToFp_of_lt_log2 (hn : n ≠ 0) (hk : 23 < Nat.log2 n) :
    truncToFp n = ((Nat.log2 n + 126) * 2 ^ 23 + n / 2 ^ (Nat.log2 n - 23), n % 2 ^ (Nat.log2 n - 23),
      Nat.log2 n - 23) := by
  rw [truncToFp, if_neg hn, if_neg (by omega)]

/-- A significand of 24 bits at the place of the leading bit, and the next one. -/
theorem magnitudeOf_add_and_succ {k q : ℕ} (hlo : 2 ^ 23 ≤ q) (hhi : q < 2 ^ 24) :
    magnitudeOf (k * 2 ^ 23 + q) = q * 2 ^ k ∧ magnitudeOf (k * 2 ^ 23 + q + 1) = (q + 1) * 2 ^ k := by
  rw [Nat.add_assoc]
  exact ⟨magnitudeOf_add hhi.le (.inr hlo), magnitudeOf_add hhi (.inr (by omega))⟩

/-- The pattern that an integer is truncated to has the greatest magnitude not above it, and the rest says what is left. -/
theorem truncToFp_spec (hn : n ≤ 2 ^ 31) {bits rest place : ℕ} (h : truncToFp n = (bits, rest, place)) :
    bits + 1 < 0x7F800000 ∧ magnitudeOf bits + rest * 2 ^ 149 = n * 2 ^ 149 ∧ n * 2 ^ 149 < magnitudeOf (bits + 1) := by
  by_cases hn0 : n = 0
  · subst hn0
    obtain ⟨rfl, rfl, -⟩ : 0 = bits ∧ 0 = rest ∧ 0 = place := by simpa [truncToFp] using h
    exact ⟨by norm_num, by norm_num, by decide⟩
  have hlo : 2 ^ Nat.log2 n ≤ n := Nat.log2_self_le hn0
  have hhi : n < 2 ^ (Nat.log2 n + 1) := Nat.lt_log2_self
  have hk : Nat.log2 n < 32 := (Nat.log2_lt hn0).mpr (by omega)
  generalize hlog : Nat.log2 n = k at hlo hhi hk
  rcases Nat.lt_or_ge 23 k with hgt | hle
  · rw [truncToFp_of_lt_log2 hn0 (by omega), hlog] at h
    simp only [Prod.mk.injEq] at h
    obtain ⟨rfl, rfl, rfl⟩ := h
    have hpos : 0 < 2 ^ (k - 23) := Nat.two_pow_pos _
    have hq : 2 ^ 23 ≤ n / 2 ^ (k - 23) := by
      rwa [Nat.le_div_iff_mul_le hpos, ← Nat.pow_add, show 23 + (k - 23) = k by omega]
    have hq' : n / 2 ^ (k - 23) < 2 ^ 24 := by
      rwa [Nat.div_lt_iff_lt_mul hpos, ← Nat.pow_add, show 24 + (k - 23) = k + 1 by omega]
    obtain ⟨hmag, hsucc⟩ := magnitudeOf_add_and_succ (k := k + 126) hq hq'
    have hplace : 2 ^ (k + 126) = 2 ^ (k - 23) * 2 ^ 149 := by
      rw [← Nat.pow_add, show k - 23 + 149 = k + 126 by omega]
    have hdiv := Nat.div_add_mod' n (2 ^ (k - 23))
    have hmod := Nat.mod_lt n hpos
    refine ⟨by omega, ?_, ?_⟩
    · rw [hmag, hplace, ← Nat.mul_assoc, ← Nat.add_mul, hdiv]
    · rw [hsucc, hplace, ← Nat.mul_assoc, Nat.add_mul, Nat.one_mul]
      exact Nat.mul_lt_mul_of_pos_right (by omega) (Nat.two_pow_pos 149)
  · rw [truncToFp_of_log2_le hn0 (by omega), hlog] at h
    simp only [Prod.mk.injEq] at h
    obtain ⟨rfl, rfl, -⟩ := h
    have hq : 2 ^ 23 ≤ n * 2 ^ (23 - k) := by
      calc 2 ^ 23 = 2 ^ k * 2 ^ (23 - k) := by rw [← Nat.pow_add, show k + (23 - k) = 23 by omega]
        _ ≤ n * 2 ^ (23 - k) := Nat.mul_le_mul_right _ hlo
    have hq' : n * 2 ^ (23 - k) < 2 ^ 24 := by
      calc n * 2 ^ (23 - k) < 2 ^ (k + 1) * 2 ^ (23 - k) := Nat.mul_lt_mul_of_pos_right hhi (Nat.two_pow_pos _)
        _ = 2 ^ 24 := by rw [← Nat.pow_add, show k + 1 + (23 - k) = 24 by omega]
    obtain ⟨hmag, hsucc⟩ := magnitudeOf_add_and_succ (k := k + 126) hq hq'
    have hplace : n * 2 ^ (23 - k) * 2 ^ (k + 126) = n * 2 ^ 149 := by
      rw [Nat.mul_assoc, ← Nat.pow_add, show 23 - k + (k + 126) = 149 by omega]
    refine ⟨by omega, ?_, ?_⟩
    · rw [hmag, hplace, Nat.zero_mul, Nat.add_zero]
    · rw [hsucc, Nat.add_mul, hplace, Nat.one_mul]
      exact Nat.lt_add_of_pos_right (Nat.two_pow_pos _)

end

/-- No magnitude lies between `x` and that of pattern `p`, nor equals `x` where that one does not. -/
def NextTo (x p : ℕ) : Prop :=
  ∀ c : ℕ, ¬ (magnitudeOf p < magnitudeOf c ∧ magnitudeOf c ≤ x) ∧ ¬ (x ≤ magnitudeOf c ∧ magnitudeOf c < magnitudeOf p)

theorem nextTo_below {x p : ℕ} (hle : magnitudeOf p ≤ x) (hlt : x < magnitudeOf (p + 1)) : NextTo x p := by
  refine fun c => ⟨fun ⟨hpc, hcx⟩ => ?_, fun ⟨hxc, hcp⟩ => by omega⟩
  have hstep := magnitudeOf_strictMono.monotone (Nat.succ_le_of_lt (magnitudeOf_strictMono.lt_iff_lt.mp hpc))
  exact absurd (hstep.trans hcx) (not_le.mpr hlt)

theorem nextTo_above {x p : ℕ} (hlt : magnitudeOf p < x) (hle : x ≤ magnitudeOf (p + 1)) : NextTo x (p + 1) := by
  refine fun c => ⟨fun ⟨hpc, hcx⟩ => by omega, fun ⟨hxc, hcp⟩ => ?_⟩
  have hstep := magnitudeOf_strictMono.monotone (Nat.le_of_lt_succ (magnitudeOf_strictMono.lt_iff_lt.mp hcp))
  exact absurd (hxc.trans hstep) (not_le.mpr hlt)

section
variable (num : Numerics) (x : Word)

theorem natAbs_toInt_le : x.toInt.natAbs ≤ 2 ^ 31 := by
  have hlo := BitVec.le_toInt x
  have hhi := BitVec.toInt_lt (x := x)
  omega

/-- The magnitude pattern that `itof` writes: the one below the integer, or the next. -/
def itofPattern : ℕ :=
  match truncToFp x.toInt.natAbs with
  | (bits, rest, place) => if rest = 0 then bits else if itofUp num x bits rest place then bits + 1 else bits

/-- The pattern is next to the integer's magnitude, and no infinity. -/
theorem itofPattern_spec : itofPattern num x < 0x7F800000 ∧ NextTo (x.toInt.natAbs * 2 ^ 149) (itofPattern num x) := by
  obtain ⟨⟨bits, rest, place⟩, htrunc⟩ : ∃ t, truncToFp x.toInt.natAbs = t := ⟨_, rfl⟩
  obtain ⟨hbits, hrest, hnext⟩ := truncToFp_spec (natAbs_toInt_le x) htrunc
  rw [itofPattern, htrunc]
  dsimp only
  split
  · exact ⟨by omega, nextTo_below (by omega) hnext⟩
  · rename_i hinexact
    have hpos : 0 < rest * 2 ^ 149 := Nat.mul_pos (Nat.pos_of_ne_zero hinexact) (Nat.two_pow_pos 149)
    split
    · exact ⟨by omega, nextTo_above (by omega) hnext.le⟩
    · exact ⟨by omega, nextTo_below (by omega) hnext⟩

theorem itof32_eq_packed : itof32 num x = packed (decide (x.toInt < 0)) (itofPattern num x) := by
  obtain ⟨hlt, -⟩ := itofPattern_spec num x
  rw [packed, if_neg (by omega)]
  rfl

theorem itof32_of_toInt_eq_zero (h : x.toInt = 0) : itof32 num x = 0#32 := by
  obtain rfl : x = 0#32 := BitVec.eq_of_toInt_eq h
  cases num <;> decide

theorem itofUp_ieee754_iff (bits rest place : ℕ) :
    itofUp .ieee754 x bits rest place = true ↔ 2 ^ place < 2 * rest ∨ 2 * rest = 2 ^ place ∧ bits % 2 ≠ 0 := by
  simp [itofUp]

/-- The recommended choice between the two patterns is the rounding of the significand. -/
theorem itofPattern_ieee754 (h0 : x.toInt ≠ 0) :
    itofPattern .ieee754 x = (lastPlace x.toInt.natAbs 0 + 149).toNat * 2 ^ 23 + significand x.toInt.natAbs 0 := by
  have hn : x.toInt.natAbs ≠ 0 := Int.natAbs_ne_zero.mpr h0
  rw [itofPattern]
  generalize x.toInt.natAbs = n at hn
  have hplace : lastPlace n 0 = (Nat.log2 n : ℤ) - 23 := by
    rw [lastPlace]
    omega
  rw [significand, hplace, show ((Nat.log2 n : ℤ) - 23 + 149).toNat = Nat.log2 n + 126 by omega]
  rcases Nat.lt_or_ge 23 (Nat.log2 n) with hgt | hle
  · rw [truncToFp_of_lt_log2 hn hgt, if_neg (by omega), show ((Nat.log2 n : ℤ) - 23 - 0).toNat = Nat.log2 n - 23 by omega]
    have hpos : 0 < 2 ^ (Nat.log2 n - 23) := Nat.two_pow_pos _
    simp only [itofUp_ieee754_iff, Ieee.shiftRne]
    generalize 2 ^ (Nat.log2 n - 23) = d at hpos
    split_ifs <;> omega
  · rw [truncToFp_of_log2_le hn hle, if_pos (by omega), show (0 - ((Nat.log2 n : ℤ) - 23)).toNat = 23 - Nat.log2 n by omega]
    rfl

/-- The recommended `itof` rounds the integer to nearest, ties to even. -/
theorem roundsTo_itof32 : RoundsTo (x.toInt : ℝ) (itof32 .ieee754 x) := by
  by_cases h0 : x.toInt = 0
  · rw [itof32_of_toInt_eq_zero _ _ h0, h0, Int.cast_zero]
    exact roundsTo_zero rfl
  · have hn : x.toInt.natAbs ≠ 0 := Int.natAbs_ne_zero.mpr h0
    have h := (standsFor_self x.toInt.natAbs).roundsTo_round hn (decide (x.toInt < 0)) 0
    have hcast := congrArg (Int.cast : ℤ → ℝ) (signOf_mul_natAbs x.toInt)
    rw [Int.cast_mul, Int.cast_natCast] at hcast
    rwa [round_eq_packed _ hn, ← itofPattern_ieee754 x h0, ← itof32_eq_packed, zpow_zero, mul_one, hcast] at h

theorem hasVal_itof32 : HasVal (itof32 num x) := by
  obtain ⟨hlt, -⟩ := itofPattern_spec num x
  rw [hasVal_iff, itof32_eq_packed, lowBits_packed _ hlt]
  exact hlt

theorem val_lt_int_iff (c : Word) (n : ℤ) : val c < n ↔ fpScaled c < n * 2 ^ 149 := by
  have hunit : (n : ℚ) = ((n * 2 ^ 149 : ℤ) : ℚ) * (2 : ℚ) ^ (-149 : ℤ) := by
    push_cast
    rw [mul_assoc]
    norm_num
  rw [hunit, val_eq_fpScaled, mul_lt_mul_iff_left₀ unit_pos, Int.cast_lt]

theorem int_lt_val_iff (c : Word) (n : ℤ) : n < val c ↔ n * 2 ^ 149 < fpScaled c := by
  have hunit : (n : ℚ) = ((n * 2 ^ 149 : ℤ) : ℚ) * (2 : ℚ) ^ (-149 : ℤ) := by
    push_cast
    rw [mul_assoc]
    norm_num
  rw [hunit, val_eq_fpScaled, mul_lt_mul_iff_left₀ unit_pos, Int.cast_lt]

/-- No number lies between the integer and the number `itof` writes. -/
theorem itof32_next (c : Word) :
    ¬ (val (itof32 num x) < val c ∧ val c ≤ x.toInt) ∧ ¬ (x.toInt ≤ val c ∧ val c < val (itof32 num x)) := by
  obtain ⟨hlt, hnext⟩ := itofPattern_spec num x
  have hscaled : fpScaled (itof32 num x) = signOf (decide (x.toInt < 0)) * magnitudeOf (itofPattern num x) := by
    rw [fpScaled_eq, itof32_eq_packed, fpSign_packed, lowBits_packed _ hlt]
  rw [← not_lt, ← not_lt, val_lt_iff, val_lt_iff, int_lt_val_iff, val_lt_int_iff, hscaled, fpScaled_eq]
  specialize hnext (lowBits c)
  generalize magnitudeOf (itofPattern num x) = p at hnext ⊢
  generalize magnitudeOf (lowBits c) = m at hnext ⊢
  have hsign : signOf (fpSign c) = 1 ∨ signOf (fpSign c) = -1 := by cases fpSign c <;> decide
  by_cases hneg : x.toInt < 0
  · rw [decide_eq_true hneg, show signOf true = -1 from rfl]
    rcases hsign with hc | hc <;> rw [hc] <;> omega
  · rw [decide_eq_false hneg, show signOf false = 1 from rfl]
    rcases hsign with hc | hc <;> rw [hc] <;> omega

end

end Sys2Proof.Proofs.Conversions

namespace Sys2Proof.Proofs

open Sys2Proof.Machine Sys2Proof.Claims Sys2Proof.Proofs.Conversions Sys2Proof.Proofs.FloatInstructions

/-- Settles O33: a value less than one half from an integer is rounded to it. -/
theorem ftoiGivesTheNearestInteger : Obligations.FtoiGivesTheNearestInteger := by
  intro s rd rs1
  refine ⟨⟨_, givesX_ftoi ..⟩, fun n hb hn hclose => ?_⟩
  rw [← ftoi32_eq hb hn (fpNearest_of_close hclose)]
  exact givesX_ftoi ..

/-- Settles O34: the rest of a tie is one half, and the parameter chooses the neighbour. -/
theorem ftoiBreaksTiesAsTheParameterSays : Obligations.FtoiBreaksTiesAsTheParameterSays := by
  intro s rd rs1 n hb hn hn' hval
  have hgives {k : ℤ} (hk : InInt32 k) (h : fpNearest s.params.ftoiTie (s.readF rs1) = k) :
      GivesX (.ftoi rd rs1) s rd (BitVec.ofInt 32 k) (s.pc + 1#32) := by
    rw [← ftoi32_eq hb hk h]
    exact givesX_ftoi ..
  have htie := fpNearest_of_tie (tie := s.params.ftoiTie) hval
  refine ⟨fun h => ?even, fun h => ?towardZero, fun h => ?away, fun h => ?unfixed⟩ <;> rw [h] at htie hgives
  case even =>
    refine hgives (by split <;> assumption) ?_
    by_cases heven : n % 2 = 0 <;> simp [htie, tieUp, heven]
  case towardZero =>
    refine hgives (by split <;> assumption) ?_
    simp [htie, tieUp]
  case away =>
    refine hgives (by split <;> assumption) ?_
    by_cases hneg : n < 0 <;> simp [htie, tieUp, hneg]
  case unfixed =>
    split at htie
    · exact .inr (hgives hn' htie)
    · exact .inl (hgives hn htie)

/-- Settles O35: the model's quotient is the floor of the value. -/
theorem floorGivesTheGreatestIntegerBelow : Obligations.FloorGivesTheGreatestIntegerBelow := by
  intro s rd rs1
  refine ⟨⟨_, givesX_floor ..⟩, fun n hb hn hle hlt => ?_⟩
  rw [← floor32_eq hb hn ((floor_val _).symm.trans (Int.floor_eq_iff.mpr ⟨hle, hlt⟩))]
  exact givesX_floor ..

/-- Settles O36: no number lies between the integer and the number written, so it is the integer where that is a number. -/
theorem itofGivesTheNumberOrANeighbour : Obligations.ItofGivesTheNumberOrANeighbour := by
  intro s rd rs1 n
  have hnext := itof32_next s.params.numerics (s.readX rs1)
  refine ⟨_, givesF_itof s rd rs1, hasVal_itof32 _ _, itof32_of_toInt_eq_zero _ _, fun c _ hcn => ?_,
    fun c _ => hnext c, fun hnum => ?_⟩
  · obtain ⟨hbelow, habove⟩ := hnext c
    rcases lt_trichotomy (val (itof32 s.params.numerics (s.readX rs1))) (val c) with hlt | heq | hgt
    · exact absurd ⟨hlt, hcn.le⟩ hbelow
    · exact heq.trans hcn
    · exact absurd ⟨hcn.ge, hgt⟩ habove
  · rw [hnum]
    exact roundsTo_itof32 _

end Sys2Proof.Proofs
end

section
/-! PROOFS. The comparisons (46_fp_compute.md R182 to R185): by value where the spec fixes it, and the order of infinities
and the NaNs under the recommended instantiation (R190). -/

namespace Sys2Proof.Proofs.Comparisons

open Sys2Proof.Machine Sys2Proof.Claims Sys2Proof.Proofs.FloatValue Sys2Proof.Proofs.Rounding Sys2Proof.Proofs.IeeeOps
open Sys2Proof.Proofs.Words Sys2Proof.Proofs.FloatInstructions

/-! ### What the comparison functions decide -/

section
variable {num : Numerics} {byValue : ℤ → ℤ → Bool} {draw : Word → Word → Bool} {a b : Word}

theorem fpPlain_of_zeroOrNormal (h : ZeroOrNormal b) : fpPlain b = true := by
  rw [fpPlain, Bool.or_eq_true, decide_eq_true_eq, decide_eq_true_eq, fpClass_zero_iff, fpClass_normal_iff, IsZero]
  rcases h with ⟨hlo, hhi⟩ | hzero
  · exact .inr ⟨by omega, by omega⟩
  · exact .inl hzero

theorem compareWith_plain (ha : ZeroOrNormal a) (hb : ZeroOrNormal b) :
    compareWith num byValue draw a b = byValue (fpScaled a) (fpScaled b) := by
  unfold compareWith
  rw [fpPlain_of_zeroOrNormal ha, fpPlain_of_zeroOrNormal hb]
  rfl

theorem not_nan_of_fpPlain (h : fpPlain b = true) : fpClass b ≠ .nan := by
  rw [fpPlain, Bool.or_eq_true, decide_eq_true_eq, decide_eq_true_eq] at h
  rcases h with h | h <;> simp [h]

theorem compareWith_ieee754 : compareWith .ieee754 byValue draw a b =
    (decide (fpClass a ≠ .nan) && decide (fpClass b ≠ .nan) && byValue (fpScaled a) (fpScaled b)) := by
  rw [compareWith]
  split
  · rename_i hplain
    rw [Bool.and_eq_true] at hplain
    rw [decide_eq_true (not_nan_of_fpPlain hplain.1), decide_eq_true (not_nan_of_fpPlain hplain.2)]
    rfl
  · rfl

theorem compareWith_of_not_nan (ha : ¬ IsNaN a) (hb : ¬ IsNaN b) :
    compareWith .ieee754 byValue draw a b = byValue (fpScaled a) (fpScaled b) := by
  rw [compareWith_ieee754, decide_eq_true (mt (fpClass_nan_iff a).mp ha), decide_eq_true (mt (fpClass_nan_iff b).mp hb)]
  rfl

theorem compareWith_of_nan (h : IsNaN a ∨ IsNaN b) : compareWith .ieee754 byValue draw a b = false := by
  rw [compareWith_ieee754]
  rcases h with h | h <;> simp [(fpClass_nan_iff _).mpr h]

/-- Equal patterns are equal by value too, so the shortcut of `feq` changes nothing where it compares by value. -/
theorem feq32_of_compareWith (h : compareWith num (fun u v => decide (u = v)) Config.feqDraw a b =
    decide (fpScaled a = fpScaled b)) : feq32 num a b = decide (fpScaled a = fpScaled b) := by
  rw [feq32, h]
  split
  · rename_i heq
    rw [heq.1, decide_eq_true rfl]
  · rfl

theorem feq32_of_nan (h : IsNaN a ∨ IsNaN b) : feq32 .ieee754 a b = false := by
  rw [feq32, compareWith_of_nan h, if_neg]
  rintro ⟨rfl, hn⟩
  exact hn ((fpClass_nan_iff a).mpr (or_self_iff.mp h))

end

/-! ### Infinities among the numbers -/

section
variable {b : Word}

theorem not_isNaN_of_hasVal (h : HasVal b) : ¬ IsNaN b := fun hn => h hn.1

theorem not_isNaN_infinityOf : ∀ minus : Bool, ¬ IsNaN (infinityOf minus) := by
  intro minus h
  cases minus <;> exact h.2 rfl

theorem fpScaled_infinityOf (minus : Bool) : fpScaled (infinityOf minus) = signOf minus * magnitudeOf 0x7F800000 := by
  have hsign : fpSign (infinityOf minus) = minus := by cases minus <;> rfl
  have hlow : lowBits (infinityOf minus) = 0x7F800000 := by cases minus <;> decide
  rw [fpScaled_eq, hsign, hlow]

theorem abs_fpScaled_lt (h : HasVal b) :
    -(magnitudeOf 0x7F800000 : ℤ) < fpScaled b ∧ fpScaled b < magnitudeOf 0x7F800000 := by
  have hmag := magnitudeOf_strictMono ((hasVal_iff b).mp h)
  have hsign : signOf (fpSign b) = 1 ∨ signOf (fpSign b) = -1 := by cases fpSign b <;> decide
  rw [fpScaled_eq]
  generalize magnitudeOf 0x7F800000 = m at hmag ⊢
  rcases hsign with hs | hs <;> rw [hs] <;> omega

theorem infinity_compare_number (minus : Bool) (h : HasVal b) :
    fpScaled (infinityOf minus) ≠ fpScaled b ∧ (fpScaled (infinityOf minus) < fpScaled b ↔ minus = true) ∧
      (fpScaled (infinityOf minus) ≤ fpScaled b ↔ minus = true) := by
  obtain ⟨hlo, hhi⟩ := abs_fpScaled_lt h
  rw [fpScaled_infinityOf]
  cases minus
  · simp only [signOf, Bool.false_eq_true, if_false, one_mul, iff_false, not_lt, not_le]
    exact ⟨hhi.ne', hhi.le, hhi⟩
  · simp only [signOf, if_true, neg_one_mul, iff_true]
    exact ⟨hlo.ne, hlo, hlo.le⟩

theorem number_compare_infinity (minus : Bool) (h : HasVal b) :
    fpScaled b ≠ fpScaled (infinityOf minus) ∧ (fpScaled b < fpScaled (infinityOf minus) ↔ minus = false) ∧
      (fpScaled b ≤ fpScaled (infinityOf minus) ↔ minus = false) := by
  obtain ⟨hne, hlt, hle⟩ := infinity_compare_number minus h
  exact ⟨hne.symm, by rw [← not_le, hle, Bool.not_eq_true], by rw [← not_lt, hlt, Bool.not_eq_true]⟩

theorem infinity_compare_infinity (minus minus' : Bool) :
    (fpScaled (infinityOf minus) = fpScaled (infinityOf minus') ↔ minus = minus') ∧
      (fpScaled (infinityOf minus) < fpScaled (infinityOf minus') ↔ minus = true ∧ minus' = false) ∧
      (fpScaled (infinityOf minus) ≤ fpScaled (infinityOf minus') ↔ minus = true ∨ minus' = false) := by
  have hpos : 0 < magnitudeOf 0x7F800000 := Nat.pos_of_ne_zero (mt magnitudeOf_eq_zero_iff.mp (by norm_num))
  rw [fpScaled_infinityOf, fpScaled_infinityOf]
  generalize magnitudeOf 0x7F800000 = m at hpos
  cases minus <;> cases minus' <;> simp [signOf] <;> omega

end

theorem oneIf_congr {p q : Prop} [Decidable p] [Decidable q] (h : p ↔ q) : oneIf p = oneIf q := by
  simp only [oneIf, h]

theorem zero_eq_oneIf {p : Prop} [Decidable p] (h : ¬ p) : 0#32 = oneIf p := (if_neg h).symm

/-- The three comparisons of `a` and `b` write these words. -/
def GivesComparisons (s : State) (rd : XReg) (rs1 rs2 : FReg) (equal less lessOrEqual : Word) : Prop :=
  GivesX (.feq rd rs1 rs2) s rd equal (s.pc + 1#32) ∧ GivesX (.flt rd rs1 rs2) s rd less (s.pc + 1#32) ∧
    GivesX (.fle rd rs1 rs2) s rd lessOrEqual (s.pc + 1#32)

section
variable {s : State} {rd : XReg} {rs1 rs2 : FReg}

/-- Where the three functions compare by value, so do the instructions. -/
theorem givesComparisons_of_compareWith
    (h : ∀ (byValue : ℤ → ℤ → Bool) (draw : Word → Word → Bool),
      compareWith s.params.numerics byValue draw (s.readF rs1) (s.readF rs2) =
        byValue (fpScaled (s.readF rs1)) (fpScaled (s.readF rs2))) :
    GivesComparisons s rd rs1 rs2 (oneIf (fpScaled (s.readF rs1) = fpScaled (s.readF rs2)))
      (oneIf (fpScaled (s.readF rs1) < fpScaled (s.readF rs2)))
      (oneIf (fpScaled (s.readF rs1) ≤ fpScaled (s.readF rs2))) := by
  have heq := givesX_feq s rd rs1 rs2
  have hlt := givesX_flt s rd rs1 rs2
  have hle := givesX_fle s rd rs1 rs2
  rw [feq32_of_compareWith (h ..), flagWord_decide] at heq
  rw [flt32, h, flagWord_decide] at hlt
  rw [fle32, h, flagWord_decide] at hle
  exact ⟨heq, hlt, hle⟩

/-- The values stand for the scaled values. -/
theorem GivesComparisons.byVal
    (h : GivesComparisons s rd rs1 rs2 (oneIf (fpScaled (s.readF rs1) = fpScaled (s.readF rs2)))
      (oneIf (fpScaled (s.readF rs1) < fpScaled (s.readF rs2)))
      (oneIf (fpScaled (s.readF rs1) ≤ fpScaled (s.readF rs2)))) :
    GivesComparisons s rd rs1 rs2 (oneIf (val (s.readF rs1) = val (s.readF rs2)))
      (oneIf (val (s.readF rs1) < val (s.readF rs2))) (oneIf (val (s.readF rs1) ≤ val (s.readF rs2))) := by
  rwa [← oneIf_congr (val_eq_iff ..), ← oneIf_congr (val_lt_iff ..), ← oneIf_congr (val_le_iff ..)] at h

end

end Sys2Proof.Proofs.Comparisons

namespace Sys2Proof.Proofs

open Sys2Proof.Machine Sys2Proof.Claims Sys2Proof.Proofs.FloatValue Sys2Proof.Proofs.IeeeOps Sys2Proof.Proofs.Words
open Sys2Proof.Proofs.FloatInstructions Sys2Proof.Proofs.Comparisons

/-- Settles O37: on plain operands the draw is not asked, and equal patterns are equal whatever the draw. -/
theorem comparisonsAreByValue : Obligations.ComparisonsAreByValue := by
  intro s rd rs1 rs2 a b
  refine ⟨⟨_, _, _, givesX_feq .., givesX_flt .., givesX_fle ..⟩, fun ha hb => ?_, fun hab hn => ?_⟩
  · exact (givesComparisons_of_compareWith fun _ _ => compareWith_plain ha hb).byVal
  · have heq := givesX_feq s rd rs1 rs2
    rwa [feq32, if_pos ⟨hab, mt (fpClass_nan_iff a).mp hn⟩] at heq

/-- Settles O38: the scaled value of an infinity lies beyond those of the numbers, and a NaN makes every comparison false. -/
theorem recommendedComparisonsFollowIeee : Obligations.RecommendedComparisonsFollowIeee := by
  intro s rd rs1 rs2 hnum a b gives
  have hscaled (ha : ¬ IsNaN a) (hb : ¬ IsNaN b) :
      gives (oneIf (fpScaled a = fpScaled b)) (oneIf (fpScaled a < fpScaled b)) (oneIf (fpScaled a ≤ fpScaled b)) :=
    givesComparisons_of_compareWith fun _ _ => by rw [hnum, compareWith_of_not_nan ha hb]
  refine ⟨fun ha hb => ?_, fun minus ha hb => ?_, fun minus ha hb => ?_, fun minus minus' ha hb => ?_, fun hn => ?_⟩
  · exact GivesComparisons.byVal (hscaled (not_isNaN_of_hasVal ha) (not_isNaN_of_hasVal hb))
  · have h := hscaled (ha ▸ not_isNaN_infinityOf minus) (not_isNaN_of_hasVal hb)
    obtain ⟨hne, hlt, hle⟩ := infinity_compare_number minus hb
    rwa [ha, ← zero_eq_oneIf hne, oneIf_congr hlt, oneIf_congr hle] at h
  · have h := hscaled (not_isNaN_of_hasVal ha) (hb ▸ not_isNaN_infinityOf minus)
    obtain ⟨hne, hlt, hle⟩ := number_compare_infinity minus ha
    rwa [hb, ← zero_eq_oneIf hne, oneIf_congr hlt, oneIf_congr hle] at h
  · have h := hscaled (ha ▸ not_isNaN_infinityOf minus) (hb ▸ not_isNaN_infinityOf minus')
    obtain ⟨heq, hlt, hle⟩ := infinity_compare_infinity minus minus'
    rwa [ha, hb, oneIf_congr heq, oneIf_congr hlt, oneIf_congr hle] at h
  · have heq := givesX_feq s rd rs1 rs2
    have hlt := givesX_flt s rd rs1 rs2
    have hle := givesX_fle s rd rs1 rs2
    rw [hnum, feq32_of_nan hn] at heq
    rw [hnum, flt32, compareWith_of_nan hn] at hlt
    rw [hnum, fle32, compareWith_of_nan hn] at hle
    exact ⟨heq, hlt, hle⟩

end Sys2Proof.Proofs
end

section
/-! PROOFS. The recommended instantiation on NaNs and infinities, and where no number is the result (46_fp_compute.md R190):
one equation for each operation and combination of kinds. -/

namespace Sys2Proof.Proofs.IeeeExceptions

open Sys2Proof.Machine Sys2Proof.Claims Sys2Proof.Proofs.FloatValue Sys2Proof.Proofs.IeeeOps

/-! ### The kinds exclude each other, and the sign bit does not matter to them -/

section
variable {b : Word}

theorem fpClass_eq_nan (h : IsNaN b) : fpClass b = .nan := (fpClass_nan_iff b).mpr h

theorem fpClass_eq_infinite (h : IsInfinite b) : fpClass b = .infinite := (fpClass_infinite_iff b).mpr h

theorem fpClass_eq_zero (h : IsZero b) : fpClass b = .zero := (fpClass_zero_iff b).mpr h

theorem fpFinite_of_isInfinite (h : IsInfinite b) : fpFinite b = false :=
  Bool.eq_false_iff.mpr fun hf => (fpFinite_iff b).mp hf h.1

theorem isNaN_xor_signBit : IsNaN (b ^^^ 0x80000000#32) ↔ IsNaN b := by
  rw [IsNaN, IsNaN, expField_eq, fracField_eq, lowBits_xor_signBit, ← expField_eq, ← fracField_eq]

theorem isInfinite_xor_signBit : IsInfinite (b ^^^ 0x80000000#32) ↔ IsInfinite b := by
  rw [isInfinite_iff, isInfinite_iff, lowBits_xor_signBit]

theorem eq_infinityOf_of_fpSign {sign : Bool} (h : IsInfinite b) (hs : fpSign b = sign) : b = infinityOf sign :=
  hs ▸ eq_infinityOf_of_isInfinite b h

end

theorem infinity_eq (sign : Bool) : Ieee.infinity sign = infinityOf sign := rfl

theorem zero_eq (sign : Bool) : Ieee.zero sign = zeroOf sign := rfl

/-- The draw leaves the exponent and the bit that makes a NaN quiet. -/
theorem isNaN_nan (op : FpOp) (a b : Word) : IsNaN (Ieee.nan op a b) := by
  have hexp : (Ieee.nan op a b).extractLsb' 23 8 = 255#8 := by
    rw [Ieee.nan, BitVec.extractLsb'_or, BitVec.extractLsb'_and, show (0x803FFFFF#32).extractLsb' 23 8 = 0#8 by decide,
      BitVec.and_zero, BitVec.or_zero]
    decide
  have hquiet : ((Ieee.nan op a b).extractLsb' 0 23).getLsbD 22 = true := by
    simp [Ieee.nan]
  refine ⟨congrArg BitVec.toNat hexp, fun hfrac => ?_⟩
  have hzero : (Ieee.nan op a b).extractLsb' 0 23 = 0#23 := BitVec.eq_of_toNat_eq hfrac
  rw [hzero] at hquiet
  simp at hquiet

section
variable {op : FpOp} {a b b' : Word}

/-! ### Sums and differences -/

theorem isNaN_addAs (h : IsNaN a ∨ IsNaN b') : IsNaN (Ieee.addAs op a b b') := by
  rw [Ieee.addAs, if_pos (h.imp fpClass_eq_nan fpClass_eq_nan)]
  exact isNaN_nan ..

theorem addAs_infinite_number (ha : IsInfinite a) (hb : HasVal b') : Ieee.addAs op a b b' = a := by
  simp [Ieee.addAs, Ieee.addExact, fpClass_eq_infinite ha, not_nan_of_hasVal hb, not_infinite_of_hasVal hb,
    fpFinite_of_isInfinite ha]

theorem addAs_number_infinite (ha : HasVal a) (hb : IsInfinite b') : Ieee.addAs op a b b' = b' := by
  simp [Ieee.addAs, Ieee.addExact, fpClass_eq_infinite hb, not_nan_of_hasVal ha, not_infinite_of_hasVal ha,
    fpFinite_of_isInfinite hb, (fpFinite_iff a).mpr ha]

theorem addAs_infinities_same (ha : IsInfinite a) (hb : IsInfinite b') (hs : fpSign a = fpSign b') :
    Ieee.addAs op a b b' = a := by
  simp [Ieee.addAs, Ieee.addExact, fpClass_eq_infinite ha, fpClass_eq_infinite hb, fpFinite_of_isInfinite ha, hs]

theorem isNaN_addAs_infinities (ha : IsInfinite a) (hb : IsInfinite b') (hs : fpSign a ≠ fpSign b') :
    IsNaN (Ieee.addAs op a b b') := by
  have h : Ieee.addAs op a b b' = Ieee.nan op a b := by
    simp [Ieee.addAs, fpClass_eq_infinite ha, fpClass_eq_infinite hb, hs]
  exact h ▸ isNaN_nan ..

/-! ### Products -/

theorem isNaN_mul (h : IsNaN a ∨ IsNaN b) : IsNaN (Ieee.mul a b) := by
  rw [Ieee.mul, if_pos (h.imp fpClass_eq_nan fpClass_eq_nan)]
  exact isNaN_nan ..

theorem isNaN_mul_zero_infinite (h : IsInfinite a ∧ IsZero b ∨ IsZero a ∧ IsInfinite b) : IsNaN (Ieee.mul a b) := by
  have hmul : Ieee.mul a b = Ieee.nan .mul a b := by
    rcases h with ⟨ha, hb⟩ | ⟨ha, hb⟩
    · simp [Ieee.mul, fpClass_eq_infinite ha, fpClass_eq_zero hb]
    · simp [Ieee.mul, fpClass_eq_zero ha, fpClass_eq_infinite hb]
  exact hmul ▸ isNaN_nan ..

theorem mul_infinite (h : IsInfinite a ∧ ¬ IsZero b ∧ ¬ IsNaN b ∨ IsInfinite b ∧ ¬ IsZero a ∧ ¬ IsNaN a) :
    Ieee.mul a b = infinityOf (fpSign a != fpSign b) := by
  rcases h with ⟨ha, hz, hn⟩ | ⟨hb, hz, hn⟩
  · simp [Ieee.mul, fpClass_eq_infinite ha, mt (fpClass_zero_iff b).mp hz, mt (fpClass_nan_iff b).mp hn, infinity_eq]
  · simp [Ieee.mul, fpClass_eq_infinite hb, mt (fpClass_zero_iff a).mp hz, mt (fpClass_nan_iff a).mp hn, infinity_eq]

/-! ### Quotients -/

theorem isNaN_div (h : IsNaN a ∨ IsNaN b) : IsNaN (Ieee.div a b) := by
  rw [Ieee.div, if_pos (h.imp fpClass_eq_nan fpClass_eq_nan)]
  exact isNaN_nan ..

theorem isNaN_div_same_kind (h : IsInfinite a ∧ IsInfinite b ∨ IsZero a ∧ IsZero b) : IsNaN (Ieee.div a b) := by
  have hdiv : Ieee.div a b = Ieee.nan .div a b := by
    rcases h with ⟨ha, hb⟩ | ⟨ha, hb⟩
    · simp [Ieee.div, fpClass_eq_infinite ha, fpClass_eq_infinite hb]
    · simp [Ieee.div, fpClass_eq_zero ha, fpClass_eq_zero hb]
  exact hdiv ▸ isNaN_nan ..

theorem div_to_infinity (h : IsInfinite a ∧ HasVal b ∨ HasVal a ∧ ¬ IsZero a ∧ IsZero b) :
    Ieee.div a b = infinityOf (fpSign a != fpSign b) := by
  rcases h with ⟨ha, hb⟩ | ⟨ha, hz, hb⟩
  · simp [Ieee.div, fpClass_eq_infinite ha, not_nan_of_hasVal hb, not_infinite_of_hasVal hb,
      infinity_eq]
  · simp [Ieee.div, fpClass_eq_zero hb, not_nan_of_hasVal ha, mt (fpClass_zero_iff a).mp hz, infinity_eq]

theorem div_by_infinity (ha : HasVal a) (hb : IsInfinite b) : Ieee.div a b = zeroOf (fpSign a != fpSign b) := by
  simp [Ieee.div, fpClass_eq_infinite hb, not_nan_of_hasVal ha, not_infinite_of_hasVal ha, zero_eq]

/-! ### Roots -/

theorem isNaN_sqrt_nan (h : IsNaN a) : IsNaN (Ieee.sqrt a) := by
  rw [Ieee.sqrt, if_pos (fpClass_eq_nan h)]
  exact isNaN_nan ..

theorem isNaN_sqrt_negative (hn : fpClass a ≠ .nan) (hz : fpClass a ≠ .zero) (hs : fpSign a = true) :
    IsNaN (Ieee.sqrt a) := by
  rw [Ieee.sqrt, if_neg hn, if_neg hz, if_pos hs]
  exact isNaN_nan ..

theorem sqrt_infinity : Ieee.sqrt (infinityOf false) = infinityOf false := by
  have hclass : fpClass (infinityOf false) = .infinite := by decide
  have hsign : fpSign (infinityOf false) = false := rfl
  simp [Ieee.sqrt, hclass, hsign]

end

end Sys2Proof.Proofs.IeeeExceptions

namespace Sys2Proof.Proofs

open Sys2Proof.Machine Sys2Proof.Claims Sys2Proof.Proofs.FloatValue Sys2Proof.Proofs.IeeeOps
open Sys2Proof.Proofs.FloatInstructions Sys2Proof.Proofs.IeeeExceptions

/-- Settles O42: each clause is an equation of the operation on those kinds; a difference is the sum with the second
operand's sign bit flipped. -/
theorem recommendedExceptionalResults : Obligations.RecommendedExceptionalResults := by
  intro s rd rs1 rs2 hnum a b product
  have hadd : GivesF (.fadd rd rs1 rs2) s rd (Ieee.addAs .add a b b) := givesF_ieee_add hnum ..
  have hsub : GivesF (.fsub rd rs1 rs2) s rd (Ieee.addAs .sub a b (b ^^^ 0x80000000#32)) := givesF_ieee_sub hnum ..
  have hmul : GivesF (.fmul rd rs1 rs2) s rd (Ieee.mul a b) := givesF_ieee_mul hnum ..
  have hdiv : GivesF (.fdiv rd rs1 rs2) s rd (Ieee.div a b) := givesF_ieee_div hnum ..
  have hsqrt : GivesF (.fsqrt rd rs1) s rd (Ieee.sqrt a) := givesF_ieee_sqrt hnum ..
  have hflip := fpSign_xor_signBit b
  refine ⟨fun h => ?nan, fun ha hb => ?infinite_number, fun ha hb => ?number_infinite, fun ha hb hs => ?same,
    fun ha hb hs => ?opposite, fun h => ?zero_times_infinite, fun h => ?product, fun h => ?same_kind,
    fun h => ?quotient_infinite, fun ha hb => ?quotient_zero, fun h => ?root, fun h => ?root_nan⟩
  case nan =>
    exact ⟨⟨_, hadd, isNaN_addAs h⟩, ⟨_, hsub, isNaN_addAs (h.imp_right isNaN_xor_signBit.mpr)⟩, ⟨_, hmul, isNaN_mul h⟩,
      ⟨_, hdiv, isNaN_div h⟩⟩
  case infinite_number =>
    rw [addAs_infinite_number ha hb] at hadd
    rw [addAs_infinite_number ha (hasVal_xor_signBit hb)] at hsub
    exact ⟨hadd, hsub⟩
  case number_infinite =>
    have hb' := isInfinite_xor_signBit.mpr hb
    rw [addAs_number_infinite ha hb] at hadd
    rw [addAs_number_infinite ha hb', eq_infinityOf_of_fpSign hb' hflip] at hsub
    exact ⟨hadd, hsub⟩
  case same =>
    have hsign : fpSign a = fpSign b := bne_eq_false_iff_eq.mp hs
    rw [addAs_infinities_same ha hb hsign] at hadd
    exact ⟨hadd, _, hsub, isNaN_addAs_infinities ha (isInfinite_xor_signBit.mpr hb) (by simp [hflip, hsign])⟩
  case opposite =>
    have hsign : fpSign a ≠ fpSign b := bne_iff_ne.mp hs
    rw [addAs_infinities_same ha (isInfinite_xor_signBit.mpr hb) ((Bool.eq_not.mpr hsign).trans hflip.symm)] at hsub
    exact ⟨⟨_, hadd, isNaN_addAs_infinities ha hb hsign⟩, hsub⟩
  case zero_times_infinite => exact ⟨_, hmul, isNaN_mul_zero_infinite h⟩
  case product =>
    rw [mul_infinite h] at hmul
    exact hmul
  case same_kind => exact ⟨_, hdiv, isNaN_div_same_kind h⟩
  case quotient_infinite =>
    rw [div_to_infinity h] at hdiv
    exact hdiv
  case quotient_zero =>
    rw [div_by_infinity ha hb] at hdiv
    exact hdiv
  case root =>
    rw [h, sqrt_infinity, ← h] at hsqrt
    exact hsqrt
  case root_nan =>
    refine ⟨_, hsqrt, ?_⟩
    rcases h with h | h | ⟨ha, hneg⟩
    · exact isNaN_sqrt_nan h
    · rw [h]
      exact isNaN_sqrt_negative (by decide) (by decide) rfl
    · exact isNaN_sqrt_negative (not_nan_of_hasVal ha) (not_zero_of_val_ne_zero hneg.ne)
        ((fpSign_iff_val_neg hneg.ne).mpr hneg)

end Sys2Proof.Proofs
end
